-- ==== Sys2Proof/Word.lean ====
section
/-! DEFINITION. The plain word types of the block (spec R11: every register and every memory cell is an
unsigned 8-bit value; R70: hardware memory is addressed by 16-bit byte offsets). -/

namespace Sys2Proof

/-- One byte: a register, a memory cell, a pixel of the output (R11). -/
abbrev Byte := BitVec 8

/-- A byte offset into hardware memory, 0x0000..0xFFFF (R70). -/
abbrev Addr := BitVec 16

/-- A palette index or a shade, 0..3 (R16). -/
abbrev TwoBit := BitVec 2

/-- A row or a column inside an 8x8 tile, 0..7 (R150: the type admits no other value). -/
abbrev TileCoord := BitVec 3

/-- The 40-bit host command word `cw` (R102). -/
abbrev CommandWord := BitVec 40

/-- The 4-bit sequencer selection word `sel` (R107). -/
abbrev SelWord := BitVec 4

end Sys2Proof
end

