-- ==== Sys2Proof/Config.lean ====
section
/-! DEFINITION. What is fixed for one instance of the block and never written by a step: the constants of
R9, the two parameters of R10 (BLANK and TILE_BASE_SIGNED), and the free values of R13 (`draw8()`). -/

namespace Sys2Proof.Config

/-- MEM_SIZE, the 64 KiB the block needs and ever addresses (R9). -/
def memSize : Nat := 65536
/-- OFF_TILE, tile data (R9, R72). -/
def offTile : Nat := 0x8000
/-- OFF_MAP0, tile map 0 (R9, R72). -/
def offMap0 : Nat := 0x9800
/-- OFF_MAP1, tile map 1 (R9, R72). -/
def offMap1 : Nat := 0x9C00
/-- OFF_OAM, object table (R9, R72). -/
def offOam : Nat := 0xFE00
/-- TILE_BYTES, bytes per tile (R9). -/
def tileBytes : Nat := 16
/-- MAP_DIM, entries in a row of a tile map (R9). -/
def mapDim : Nat := 32
/-- OAM_N × OAM_REC, the bytes of the object table and of an LDOAM burst (R9, R116). -/
def oamBytes : Nat := 160
/-- OAM_REC, bytes in one object record (R9). -/
def oamRec : Nat := 4
/-- MAX_SPRITES, sprites selected on a line at most (R9). -/
def maxSprites : Nat := 10
/-- SCREEN_H, the number of visible lines (R9). -/
def screenH : Nat := 144
/-- SCREEN_W, the number of pixels of a line (R9). -/
def screenW : Nat := 160
/-- Y_OFS: stored sprite y is screen y + 16 (R9, R78). -/
def yOfs : Nat := 16
/-- X_OFS: stored sprite x is screen x + 8 (R9, R78). -/
def xOfs : Nat := 8
/-- WX_OFS: the window's left column is WX − 7 (R9, R171). -/
def wxOfs : Nat := 7
/-- The last visible line, after which VERTICAL_BLANK is entered (R192). -/
def lastVisible : Byte := 143
/-- The last line of a frame, LINES − 1 (R9, R201). -/
def lastLine : Byte := 153
/-- The code of CfgError (R221). -/
def cfgErrorCode : Nat := 1

/-- BLANK of the instance `State.reset` describes: one byte the spec leaves open (R10, R184, D11).
A constant with no body: nothing can be proved about its value. DESIGN CHOICE (log 3). -/
opaque blank : Byte

/-- The spec's `draw8()` (R13): the byte the `n`-th draw gives, under no law.
A constant with no body; `State.draws` counts the draws. DESIGN CHOICE (log 4). -/
opaque freeByte : Nat → Byte

/-- The largest legal TILE_BASE_SIGNED (R85, U10). -/
def maxTileBase : Nat := 0xF000

/-- The parameters of one instance (R10, R49). A base above 0xF000 cannot be written down here; the
operation that creates an instance refuses one (`createInstance`, R85). -/
structure Params where
  /-- BLANK, the display-off sentinel (R184). -/
  blank          : Byte
  /-- TILE_BASE_SIGNED, where signed tile addressing starts (R73, R152). -/
  tileBaseSigned : Fin 0xF001
deriving DecidableEq, Repr

/-- The default instance: TILE_BASE_SIGNED = 0x8800 (R73, D5) and the open BLANK. -/
def Params.default : Params := { blank := Config.blank, tileBaseSigned := ⟨0x8800, by decide⟩ }

end Sys2Proof.Config
end

