-- ==== Sys2Proof/Syntax.lean ====
section
/-! DEFINITION. The operations of the block as syntax: one constructor of `Instr` per row of
spec/opcode_table.json (ten host operations, eight sequencer steps), and the names they use. -/

namespace Sys2Proof

/-- The 11 registers of the Register Bank (R30). Numbers 6 and 12 to 15 name no register. -/
inductive Reg where
  | lcdc | stat | scy | scx | ly | lyc | bgp | obp0 | obp1 | wy | wx
deriving DecidableEq, Repr

/-- The four modes (R16, R36). -/
inductive Mode where
  | hbl | vbl | oam | xfer
deriving DecidableEq, Repr

/-- The sequencer's phase register (R43). Codes 6 and 7 are unrepresentable, as R112 recommends. -/
inductive Phase where
  | hbl | vbl | oam | xfer | wait | start
deriving DecidableEq, Repr

/-- The operations of the block. -/
inductive Instr where
  /-- INIT (R131). -/
  | init
  /-- RDREG r (R132). -/
  | rdreg (r : Reg)
  /-- WRREG r, v (R133). -/
  | wrreg (r : Reg) (v : Byte)
  /-- SETF r, m (R134). -/
  | setf (r : Reg) (m : Byte)
  /-- CLRF r, m (R135). -/
  | clrf (r : Reg) (m : Byte)
  /-- RDMEM a (R136). -/
  | rdmem (a : Addr)
  /-- WRMEM a, v (R137). -/
  | wrmem (a : Addr) (v : Byte)
  /-- LDOAM with its data burst (R138, R116). -/
  | ldoam (burst : List Byte)
  /-- RENDER c0, c1, c2, c3 (R140). -/
  | render (c0 c1 c2 c3 : Byte)
  /-- SETIRQ e (R141). -/
  | setirq (e : Bool)
  /-- SQ_BLANK (R193). -/
  | sqBlank
  /-- SQ_BEGIN (R195). -/
  | sqBegin
  /-- SQ_XFER (R196). -/
  | sqXfer
  /-- SQ_HBL (R197). -/
  | sqHbl
  /-- SQ_LINE (R198). -/
  | sqLine
  /-- SQ_VBL (R199). -/
  | sqVbl
  /-- SQ_VLINE (R200). -/
  | sqVline
  /-- SQ_END (R201). -/
  | sqEnd
deriving DecidableEq, Repr

/-- The two bitfield registers, the only ones SETF and CLRF exist for (R113). -/
def Reg.isFlagReg : Reg → Bool
  | .lcdc | .stat => true
  | .scy | .scx | .ly | .lyc | .bgp | .obp0 | .obp1 | .wy | .wx => false

/-- A host operation, as against a sequencer step (R101). -/
def Instr.isHost : Instr → Bool
  | .init | .rdreg _ | .wrreg _ _ | .setf _ _ | .clrf _ _ | .rdmem _ | .wrmem _ _ | .ldoam _
  | .render _ _ _ _ | .setirq _ => true
  | .sqBlank | .sqBegin | .sqXfer | .sqHbl | .sqLine | .sqVbl | .sqVline | .sqEnd => false

end Sys2Proof
end

