-- ==== Sys2Proof/WellFormed.lean ====
section
/-! DEFINITION. Which terms of `Instr` stand for an operation of the table (R113: SETF and CLRF name LCDC or
STAT; R116: an LDOAM burst has exactly 160 bytes). Everything else an `Instr` can say is well formed. -/

namespace Sys2Proof

/-- The number of burst bytes that follow an operation's command word (R116). -/
def Instr.burstLength : Instr → Nat
  | .ldoam _ => Config.oamBytes
  | .init | .rdreg _ | .wrreg _ _ | .setf _ _ | .clrf _ _ | .rdmem _ | .wrmem _ _
  | .render _ _ _ _ | .setirq _ => 0
  | .sqBlank | .sqBegin | .sqXfer | .sqHbl | .sqLine | .sqVbl | .sqVline | .sqEnd => 0

/-- The well-formedness check. -/
def Instr.wf : Instr → Bool
  | .setf r _ | .clrf r _ => r.isFlagReg
  | .ldoam d => d.length == Config.oamBytes
  | .init | .rdreg _ | .wrreg _ _ | .rdmem _ | .wrmem _ _ | .render _ _ _ _ | .setirq _ => true
  | .sqBlank | .sqBegin | .sqXfer | .sqHbl | .sqLine | .sqVbl | .sqVline | .sqEnd => true

end Sys2Proof
end

