-- ==== Sys2Proof/Decode.lean ====
section
/-! DEFINITION. Decoding and encoding: the 40-bit host command word of R102 to R106 with its burst (R116), and
the 4-bit sequencer selection word of R107, R108. Both directions are written from the tables of
spec/30_encoding.md. Fields are unsigned integers taken as they stand (R105). -/

namespace Sys2Proof

/-- What the block is given to decode: a command word with the data burst that follows it, or a
selection word the sequencer formed from its own state (R101). -/
inductive Fetched where
  | host (word : CommandWord) (burst : List Byte)
  | sel (word : SelWord)
deriving DecidableEq, Repr

/-- Why a word decodes to nothing. -/
inductive DecodeError where
  /-- No row of the table (R111), or a register number the row may not name (R113). -/
  | reservedEncoding
  /-- A burst of a length the opcode does not have (R116). -/
  | badBurst
  /-- Selection `100 x`: at WAIT the sequencer has no step; rest, not a fault (R112). -/
  | resting
deriving DecidableEq, Repr

/-! ### Codes -/

/-- Register numbers (R30). -/
def Reg.number : Reg → BitVec 4
  | .lcdc => 0 | .stat => 1 | .scy => 2 | .scx => 3 | .ly => 4 | .lyc => 5
  | .bgp => 7 | .obp0 => 8 | .obp1 => 9 | .wy => 10 | .wx => 11

/-- The register a number names, if any (R113). -/
def Reg.ofNumber (n : BitVec 4) : Option Reg :=
  match n.toNat with
  | 0 => some .lcdc | 1 => some .stat | 2 => some .scy | 3 => some .scx
  | 4 => some .ly | 5 => some .lyc | 7 => some .bgp | 8 => some .obp0
  | 9 => some .obp1 | 10 => some .wy | 11 => some .wx
  | _ => none

/-- Phase codes (R43). -/
def Phase.code : Phase → BitVec 3
  | .hbl => 0 | .vbl => 1 | .oam => 2 | .xfer => 3 | .wait => 4 | .start => 5

/-- The phase a code names; 6 and 7 name none (R43, R112). -/
def Phase.ofCode (n : BitVec 3) : Option Phase :=
  match n.toNat with
  | 0 => some .hbl | 1 => some .vbl | 2 => some .oam | 3 => some .xfer
  | 4 => some .wait | 5 => some .start
  | _ => none

/-! ### The rows of the host opcode table -/

/-- The ten host opcodes, without their operands (R103). -/
inductive HostOp where
  | init | rdreg | wrreg | setf | clrf | rdmem | wrmem | ldoam | render | setirq
deriving DecidableEq, Repr

/-- The opcode byte of a row (R103). -/
def HostOp.opcode : HostOp → Byte
  | .init => 0x01 | .rdreg => 0x02 | .wrreg => 0x03 | .setf => 0x04 | .clrf => 0x05
  | .rdmem => 0x06 | .wrmem => 0x07 | .ldoam => 0x08 | .render => 0x09 | .setirq => 0x0A

/-- The row an opcode byte names (R103; R111 for the bytes that name none). -/
def HostOp.ofOpcode (op : Byte) : Option HostOp :=
  match op.toNat with
  | 0x01 => some .init | 0x02 => some .rdreg | 0x03 => some .wrreg | 0x04 => some .setf
  | 0x05 => some .clrf | 0x06 => some .rdmem | 0x07 => some .wrmem | 0x08 => some .ldoam
  | 0x09 => some .render | 0x0A => some .setirq
  | _ => none

/-- The mask of a row: the opcode byte and every must-be-zero bit (R104). -/
def HostOp.mask : HostOp → CommandWord
  | .init | .ldoam => 0xFFFFFFFFFF#40
  | .rdreg => 0xFFFFFFF0FF#40
  | .wrreg | .setf | .clrf => 0xFFFFFFF000#40
  | .rdmem => 0xFFFF0000FF#40
  | .wrmem => 0xFFFF000000#40
  | .render => 0xFF00000000#40
  | .setirq => 0xFFFFFFFFFE#40

/-- The match value of a row: its opcode in bits 39..32 (R104). -/
def HostOp.matchWord (op : HostOp) : CommandWord := op.opcode ++ 0#32

/-- Whether a command word is one of the row's (R104). -/
def HostOp.accepts (op : HostOp) (w : CommandWord) : Bool := w &&& op.mask == op.matchWord

/-! ### Fields of the command word (R102, R105) -/

/-- `op = cw[39:32]`. -/
def fieldOp (w : CommandWord) : Byte := w.extractLsb' 32 8
/-- `r = cw[11:8]`. -/
def fieldReg (w : CommandWord) : BitVec 4 := w.extractLsb' 8 4
/-- `v = cw[7:0]`, also `c0` and the byte that holds `e`. -/
def fieldVal (w : CommandWord) : Byte := w.extractLsb' 0 8
/-- `a = cw[23:8]`. -/
def fieldAddr (w : CommandWord) : Addr := w.extractLsb' 8 16
/-- `c1 = cw[15:8]`. -/
def fieldC1 (w : CommandWord) : Byte := w.extractLsb' 8 8
/-- `c2 = cw[23:16]`. -/
def fieldC2 (w : CommandWord) : Byte := w.extractLsb' 16 8
/-- `c3 = cw[31:24]`. -/
def fieldC3 (w : CommandWord) : Byte := w.extractLsb' 24 8
/-- `e = cw[0]`. -/
def fieldE (w : CommandWord) : Bool := w.getLsbD 0

/-! ### Decoding -/

/-- The register operand of an HR word; a number that names no register is reserved (R113). -/
def regOperand (w : CommandWord) (k : Reg → Instr) : Except DecodeError Instr :=
  match Reg.ofNumber (fieldReg w) with
  | some r => .ok (k r)
  | none => .error .reservedEncoding

/-- The register operand of SETF and CLRF, which must name LCDC or STAT (R113). -/
def flagRegOperand (w : CommandWord) (k : Reg → Instr) : Except DecodeError Instr :=
  match Reg.ofNumber (fieldReg w) with
  | some r => if r.isFlagReg then .ok (k r) else .error .reservedEncoding
  | none => .error .reservedEncoding

/-- The operands of a word that its row accepts (R105). -/
def readOperands (w : CommandWord) (burst : List Byte) : HostOp → Except DecodeError Instr
  | .init => .ok .init
  | .rdreg => regOperand w fun r => .rdreg r
  | .wrreg => regOperand w fun r => .wrreg r (fieldVal w)
  | .setf => flagRegOperand w fun r => .setf r (fieldVal w)
  | .clrf => flagRegOperand w fun r => .clrf r (fieldVal w)
  | .rdmem => .ok (.rdmem (fieldAddr w))
  | .wrmem => .ok (.wrmem (fieldAddr w) (fieldVal w))
  | .ldoam => .ok (.ldoam burst)
  | .render => .ok (.render (fieldVal w) (fieldC1 w) (fieldC2 w) (fieldC3 w))
  | .setirq => .ok (.setirq (fieldE w))

/-- The length of the burst is known from the opcode alone (R116). -/
def checkBurst (burst : List Byte) (i : Instr) : Except DecodeError Instr :=
  if burst.length = i.burstLength then .ok i else .error .badBurst

/-- Decode a command word and its burst. A word that matches no row is reserved (R104, R111). -/
def decodeHost (w : CommandWord) (burst : List Byte) : Except DecodeError Instr :=
  match HostOp.ofOpcode (fieldOp w) with
  | none => .error .reservedEncoding
  | some op =>
    if op.accepts w then
      match readOperands w burst op with
      | .ok i => checkBurst burst i
      | .error e => .error e
    else .error .reservedEncoding

/-- Decode a selection word: the map of R108. -/
def decodeSel (w : SelWord) : Except DecodeError Instr :=
  match w.toNat with
  | 0b1010 => .ok .sqBlank
  | 0b1011 => .ok .sqBegin
  | 0b0100 | 0b0101 => .ok .sqXfer
  | 0b0110 | 0b0111 => .ok .sqHbl
  | 0b0000 => .ok .sqLine
  | 0b0001 => .ok .sqVbl
  | 0b0010 => .ok .sqVline
  | 0b0011 => .ok .sqEnd
  | 0b1000 | 0b1001 => .error .resting
  | _ => .error .reservedEncoding

/-- The decoder, total on everything the block can be given. -/
def decode : Fetched → Except DecodeError Instr
  | .host w burst => decodeHost w burst
  | .sel w => decodeSel w

/-! ### Encoding -/

/-- `cw = op ++ payload` (R102). -/
def hostWord (op : HostOp) (payload : BitVec 32) : CommandWord := op.opcode ++ payload

/-- Format H0 (R102). -/
def encodeH0 (op : HostOp) : CommandWord := hostWord op 0#32
/-- Format HR (R102). -/
def encodeHR (op : HostOp) (r : Reg) (v : Byte) : CommandWord := hostWord op (0#20 ++ r.number ++ v)
/-- Format HM (R102). -/
def encodeHM (op : HostOp) (a : Addr) (v : Byte) : CommandWord := hostWord op (0#8 ++ a ++ v)
/-- Format HP (R102). -/
def encodeHP (op : HostOp) (c0 c1 c2 c3 : Byte) : CommandWord := hostWord op (c3 ++ c2 ++ c1 ++ c0)
/-- Format HE (R102). -/
def encodeHE (op : HostOp) (e : Bool) : CommandWord := hostWord op (0#31 ++ BitVec.ofBool e)
/-- Format S, `sel = phase ++ c` (R107). -/
def encodeSel (p : Phase) (c : Bool) : SelWord := p.code ++ BitVec.ofBool c

/-- The words of an operation. For SQ_XFER and SQ_HBL the condition bit is not examined (R107); the
encoder writes 0 there. -/
def encode : Instr → Fetched
  | .init => .host (encodeH0 .init) []
  | .rdreg r => .host (encodeHR .rdreg r 0) []
  | .wrreg r v => .host (encodeHR .wrreg r v) []
  | .setf r m => .host (encodeHR .setf r m) []
  | .clrf r m => .host (encodeHR .clrf r m) []
  | .rdmem a => .host (encodeHM .rdmem a 0) []
  | .wrmem a v => .host (encodeHM .wrmem a v) []
  | .ldoam d => .host (encodeH0 .ldoam) d
  | .render c0 c1 c2 c3 => .host (encodeHP .render c0 c1 c2 c3) []
  | .setirq e => .host (encodeHE .setirq e) []
  | .sqBlank => .sel (encodeSel .start false)
  | .sqBegin => .sel (encodeSel .start true)
  | .sqXfer => .sel (encodeSel .oam false)
  | .sqHbl => .sel (encodeSel .xfer false)
  | .sqLine => .sel (encodeSel .hbl false)
  | .sqVbl => .sel (encodeSel .hbl true)
  | .sqVline => .sel (encodeSel .vbl false)
  | .sqEnd => .sel (encodeSel .vbl true)

/-! ### Words as the opcode table numbers them -/

/-- The burst a table word is completed with: 160 zero bytes after opcode 0x08 (R116), none after any
other. The table gives the burst no bits. -/
def tableBurst (w : CommandWord) : List Byte :=
  if fieldOp w = HostOp.ldoam.opcode then List.replicate Config.oamBytes 0 else []

/-- What a table word of `nbits` bits stands for: a row of at most one byte is a 4-bit selection word,
every other row a 40-bit command word. -/
def ofTableWord (nbits w : Nat) : Option Fetched :=
  if nbits ≤ 8 then
    if w < 16 then some (.sel (BitVec.ofNat 4 w)) else none
  else if w < 2 ^ 40 then
    some (.host (BitVec.ofNat 40 w) (tableBurst (BitVec.ofNat 40 w)))
  else none

/-- The instruction the decoder reads from a table word. -/
def decodeTableWord (nbits w : Nat) : Option Instr :=
  match ofTableWord nbits w with
  | some f =>
    match decode f with
    | .ok i => some i
    | .error _ => none
  | none => none

end Sys2Proof
end

