-- ==== Sys2Proof/Machine/State.lean ====
section
/-! DEFINITION. The state of the block, as plain data: every piece of state spec/10_state.md gives the machine
(R30, R42 to R48), the parameters of the instance (R10, R49), the memory it is built over (R71), and what
the host port of this model holds (the host's pending actions, the last response, the open notification
window, the draw counter). INVENTORY.md lists each field with its rule. -/

namespace Sys2Proof.Machine

/-- No instruction of the block ends in a fault. The block has one synchronous error, CfgError, which
INIT returns to the host before the block goes on (R221, R222): it is a response, not a stop. No
sequencer step can raise an exception (R203). Safe: there is nothing here a run could hide behind. -/
inductive Fault where
deriving DecidableEq, Repr

/-- Operations outside the document's contract, for which the spec gives no behaviour (R223). Each is safe:
nothing can be proved about what follows. -/
inductive Refusal where
  /-- An instruction that has no meaning in this model. Raised by no arm of `exec`. Safe. -/
  | notModelled (mnemonic : String)
  /-- Any operation but INIT before INIT (R130). Raised by the nine other host operations. Safe. -/
  | notAttached
  /-- INIT, or an offered buffer, on an attached instance (R131). Safe. -/
  | alreadyAttached
  /-- A host operation while a frame is in progress, or a write inside a notification window
  (R130, R217, R247). Raised by every host operation, RDREG and RDMEM only outside a window. Safe. -/
  | frameInProgress
  /-- RENDER inside a notification window (R217). Safe. -/
  | reentrantRender
  /-- A word no row accepts, a register number a row may not name, SETF or CLRF on another register
  than LCDC or STAT (R111, R113, R134, R135). Raised by the host port and by SETF and CLRF. Safe. -/
  | reservedEncoding
  /-- A burst of a length the opcode does not have (R116). Raised by the host port and by LDOAM. Safe. -/
  | badBurst
  /-- TILE_BASE_SIGNED above 0xF000 (R85, U10). Raised by `createInstance`, by no instruction. Safe. -/
  | badConfiguration
  /-- The host closes a notification window and none is open. Raised by the host port, by no
  instruction; the spec gives that no meaning. Safe (log 8). -/
  | noWindowOpen
deriving DecidableEq, Repr

/-- Hardware memory as the bytes that differ from what an unlisted byte reads as, addresses strictly
rising (`Memory.wf`). -/
abbrev Memory := List Host.Cell

/-- The Register Bank: 11 independent bytes (R30, R31). -/
structure RegBank where
  lcdc : Byte
  stat : Byte
  scy  : Byte
  scx  : Byte
  ly   : Byte
  lyc  : Byte
  bgp  : Byte
  obp0 : Byte
  obp1 : Byte
  wy   : Byte
  wx   : Byte
deriving DecidableEq, Repr

/-- The tracker's one-shot flags, one per mode (R46, R211). -/
structure Armed where
  hbl  : Bool
  vbl  : Bool
  oam  : Bool
  xfer : Bool
deriving DecidableEq, Repr

/-- The output palette `opal`, shade 0 first (R46, R105). -/
structure OutPalette where
  c0 : Byte
  c1 : Byte
  c2 : Byte
  c3 : Byte
deriving DecidableEq, Repr

/-- One firing of the tracker: `(x[LY], mode, sink)` (R47). -/
structure TraceEntry where
  ly   : Byte
  mode : Mode
  sink : Bool
deriving DecidableEq, Repr

/-- The sequencer step a notification window stopped in the middle of (R216): the six steps that query
the tracker. -/
inductive Interrupted where
  | sqBegin | sqXfer | sqHbl | sqLine | sqVbl | sqVline
deriving DecidableEq, Repr

/-- What a host operation returned (R106, R221). -/
inductive Response where
  /-- The byte RDREG or RDMEM returns. -/
  | byte (v : Byte)
  /-- INIT's success. -/
  | initDone
  /-- A synchronous error: its code and the value recorded with it (R221). -/
  | error (code value : Nat)
deriving DecidableEq, Repr

/-- One action of the host, in the order it takes them (R14, R86). -/
inductive HostInput where
  /-- Present a command word and the burst that follows it (R102, R116). -/
  | command (word : CommandWord) (burst : List Byte)
  /-- The callback ends: the notification window closes (R218). -/
  | closeWindow
  /-- Wait for the RENDER in progress to return, with a callback that ends at once each time it is called:
  what a program text does after RENDER (R106, R118; that its callback does nothing is log 22). -/
  | awaitFrame
  /-- Build the block over a buffer of `size` bytes holding the listed bytes: the operand of a later
  INIT (R131), which the command word does not carry. -/
  | offerBuffer (size : Nat) (cells : List Host.Cell)
deriving DecidableEq, Repr

/-- The output buffer, `FB[line][col]`, 144 lines of 160 bytes (R48). -/
abbrev FrameBuffer := Vector (Vector Byte 160) 144

/-- The whole machine. -/
structure State where
  /-- The parameters of this instance; no step writes them (R10, R49). -/
  cfg      : Config.Params
  /-- `mem_size`: the size of the buffer the instance is built over (R131). -/
  bufSize  : Nat
  /-- Whether INIT has succeeded (R46). -/
  attached : Bool
  /-- Hardware memory (R70, R71). -/
  mem      : Memory
  /-- The Register Bank (R30). -/
  regs     : RegBank
  /-- The first component of the sequencer position (R42, R43). -/
  phase    : Phase
  /-- The tracker's flags (R46). -/
  armed    : Armed
  /-- Whether a notification callback is installed (R46). -/
  sink     : Bool
  /-- The output palette latched by RENDER (R46). -/
  opal     : OutPalette
  /-- The sprite line buffer: the object indices selected for the line (R45). -/
  sb       : List (Fin 40)
  /-- The output frame buffer (R48). -/
  fb       : FrameBuffer
  /-- The event trace, oldest entry first (R47). -/
  irqTrace : List TraceEntry
  /-- The open notification window, if any, and the step it stopped (R216). -/
  window   : Option Interrupted
  /-- What the last completed host operation returned (R106). -/
  response : Option Response
  /-- The host's pending actions, next first (R14). -/
  inbox    : List HostInput
  /-- How many arbitrary bytes have been drawn (R13 `draw8`): the model's own. -/
  draws    : Nat
deriving DecidableEq, Repr

/-- The state the spec leaves unspecified after reset (R50): arbitrary values, so one instance of this
for every machine that may have been created. -/
structure PowerUp where
  regs  : RegBank
  mem   : Memory
  armed : Armed
  opal  : OutPalette
  sb    : List (Fin 40)
  fb    : FrameBuffer
deriving DecidableEq, Repr

/-- The state after the creation of an instance (R240) with these parameters, over a buffer of this size,
with `u` standing for everything R50 calls unspecified. What R50 does specify is fixed here: WAIT, no
sink, not attached, empty trace. -/
def State.created (p : Config.Params) (bufSize : Nat) (u : PowerUp) : State :=
  { cfg := p, bufSize := bufSize, attached := false, mem := u.mem, regs := u.regs, phase := .wait,
    armed := u.armed, sink := false, opal := u.opal, sb := u.sb, fb := u.fb, irqTrace := [],
    window := none, response := none, inbox := [], draws := 0 }

/-- The values this model names for what R50 leaves unspecified: all zero, the one R50 instance the spec's
own tests construct. DESIGN CHOICE, unsafe (log 1). -/
def PowerUp.named : PowerUp :=
  { regs := { lcdc := 0, stat := 0, scy := 0, scx := 0, ly := 0, lyc := 0, bgp := 0, obp0 := 0,
              obp1 := 0, wy := 0, wx := 0 }
    mem := []
    armed := { hbl := false, vbl := false, oam := false, xfer := false }
    opal := { c0 := 0, c1 := 0, c2 := 0, c3 := 0 }
    sb := []
    fb := Vector.replicate 144 (Vector.replicate 160 0) }

/-- The machine right after reset: the default instance over a 65536-byte buffer (R50, R240; log 1, 2). -/
def State.reset : State := State.created Config.Params.default Config.memSize PowerUp.named

end Sys2Proof.Machine
end

