-- ==== Sys2Proof/Machine/Flags.lean ====
section
/-! DEFINITION. The flags of the control and status registers: LCDC's eight (R33), STAT's fields and how each is
written (R36, R37, R44), and the notification condition computed from them (R213). -/

namespace Sys2Proof.Machine

/-! ### LCDC (R33) -/

/-- LCD_EN. -/
def lcdEn (lcdc : Byte) : Bool := lcdc.getLsbD 7
/-- WIN_MAP. -/
def winMap (lcdc : Byte) : Bool := lcdc.getLsbD 6
/-- WIN_EN. -/
def winEn (lcdc : Byte) : Bool := lcdc.getLsbD 5
/-- TILE_DATA. -/
def tileData (lcdc : Byte) : Bool := lcdc.getLsbD 4
/-- BG_MAP. -/
def bgMap (lcdc : Byte) : Bool := lcdc.getLsbD 3
/-- OBJ_SIZE. -/
def objSize (lcdc : Byte) : Bool := lcdc.getLsbD 2
/-- OBJ_EN. -/
def objEn (lcdc : Byte) : Bool := lcdc.getLsbD 1
/-- BG_EN. -/
def bgEn (lcdc : Byte) : Bool := lcdc.getLsbD 0

/-! ### STAT (R36) -/

/-- IE_LYC. -/
def ieLyc (stat : Byte) : Bool := stat.getLsbD 6
/-- IE_OAM. -/
def ieOam (stat : Byte) : Bool := stat.getLsbD 5
/-- IE_VBL. -/
def ieVbl (stat : Byte) : Bool := stat.getLsbD 4
/-- IE_HBL. -/
def ieHbl (stat : Byte) : Bool := stat.getLsbD 3
/-- MATCH. -/
def matchFlag (stat : Byte) : Bool := stat.getLsbD 2
/-- MODE. -/
def modeField (stat : Byte) : TwoBit := stat.extractLsb' 0 2
/-- STAT[2:0], the bits the engine owns (R37). -/
def engineBits (stat : Byte) : BitVec 3 := stat.extractLsb' 0 3
/-- STAT[7:3], the bits the host owns (R225). -/
def hostBits (stat : Byte) : BitVec 5 := stat.extractLsb' 3 5

/-- Mode codes (R36). -/
def modeCode : Mode → TwoBit
  | .hbl => 0 | .vbl => 1 | .oam => 2 | .xfer => 3

/-- `x[STAT][1:0] <- code(m)`, the other six bits unchanged (R190). -/
def withMode (stat : Byte) (m : Mode) : Byte := stat.extractLsb' 2 6 ++ modeCode m

/-- `x[STAT][2] <- b`, the other seven bits unchanged (R190, R191). -/
def withMatch (stat : Byte) (b : Bool) : Byte :=
  stat.extractLsb' 3 5 ++ BitVec.ofBool b ++ stat.extractLsb' 0 2

/-- The line-compare: LY and LYC as 8-bit values (R44). -/
def lineMatch (r : RegBank) : Bool := r.ly == r.lyc

/-- What a host write of `new` leaves in STAT when it would change STAT[2:0]: the upper five bits as
written, the lower three from an arbitrary byte (R37). -/
def undefinedStat (new draw : Byte) : Byte := hostBits new ++ engineBits draw

/-! ### The notification condition (R213) -/

/-- The mode's own enable; PIXEL_TRANSFER has none. -/
def modeEnable (stat : Byte) : Mode → Bool
  | .hbl => ieHbl stat
  | .vbl => ieVbl stat
  | .oam => ieOam stat
  | .xfer => false

/-- `cond(m) = ie(m) | (IE_LYC & MATCH)`. -/
def cond (stat : Byte) (m : Mode) : Bool := modeEnable stat m || (ieLyc stat && matchFlag stat)

/-- `armed[m]`. -/
def Armed.get (a : Armed) : Mode → Bool
  | .hbl => a.hbl
  | .vbl => a.vbl
  | .oam => a.oam
  | .xfer => a.xfer

/-- `armed[m] <- b`, the other three unchanged. -/
def Armed.set (a : Armed) (m : Mode) (b : Bool) : Armed :=
  match m with
  | .hbl => { a with hbl := b }
  | .vbl => { a with vbl := b }
  | .oam => { a with oam := b }
  | .xfer => { a with xfer := b }

end Sys2Proof.Machine
end

