-- ==== Sys2Proof/Machine/Ops.lean ====
section
/-! DEFINITION. The operations every meaning is built from: bytes of memory, registers, responses, when a host
operation is accepted (R130, R217), and the block's two events toward the host, each written once: the
notification, with its window and its return (R211 to R218), and the configuration error (R222). -/

namespace Sys2Proof.Machine

/-! ### Memory -/

/-- What a byte that nothing has written reads as. DESIGN CHOICE, unsafe (log 2). -/
def Memory.unlisted : Byte := 0

/-- `MemRead(addr, 1)` (R13, R80). -/
def Memory.read : Memory → Nat → Byte
  | [], _ => Memory.unlisted
  | (k, w) :: m, a => if k = a then w else Memory.read m a

/-- `MemWrite(addr, 1, v)` (R13), keeping the canonical form. -/
def Memory.write : Memory → Nat → Byte → Memory
  | [], a, v => if v = Memory.unlisted then [] else [(a, v)]
  | (k, w) :: m, a, v =>
    if k < a then (k, w) :: Memory.write m a v
    else if k = a then (if v = Memory.unlisted then m else (a, v) :: m)
    else if v = Memory.unlisted then (k, w) :: m
    else (a, v) :: (k, w) :: m

/-- Consecutive bytes from `base` on. -/
def Memory.writeBytes (m : Memory) (base : Nat) : List Byte → Memory
  | [] => m
  | d :: ds => Memory.writeBytes (m.write base d) (base + 1) ds

/-- A memory that holds the listed bytes, later entries over earlier ones. Only the first 65536 bytes of
a buffer are ever addressed (R131), so a cell outside them is dropped. -/
def Memory.ofCells : List Host.Cell → Memory → Memory
  | [], m => m
  | (k, w) :: cs, m => Memory.ofCells cs (if k < Config.memSize then m.write k w else m)

/-- The canonical form: addresses strictly rising and inside the 64 KiB, and no entry equal to what an
unlisted byte reads as. -/
abbrev Memory.wf (m : Memory) : Prop :=
  m.Pairwise (fun c d => c.1 < d.1) ∧ ∀ c ∈ m, c.1 < Config.memSize ∧ c.2 ≠ Memory.unlisted

/-! ### Registers -/

/-- `x[r]` (R13). -/
def RegBank.get (b : RegBank) : Reg → Byte
  | .lcdc => b.lcdc
  | .stat => b.stat
  | .scy => b.scy
  | .scx => b.scx
  | .ly => b.ly
  | .lyc => b.lyc
  | .bgp => b.bgp
  | .obp0 => b.obp0
  | .obp1 => b.obp1
  | .wy => b.wy
  | .wx => b.wx

/-- `x[r] <- v`; no other register changes (R13, R31). -/
def RegBank.set (b : RegBank) (r : Reg) (v : Byte) : RegBank :=
  match r with
  | .lcdc => { b with lcdc := v }
  | .stat => { b with stat := v }
  | .scy => { b with scy := v }
  | .scx => { b with scx := v }
  | .ly => { b with ly := v }
  | .lyc => { b with lyc := v }
  | .bgp => { b with bgp := v }
  | .obp0 => { b with obp0 := v }
  | .obp1 => { b with obp1 := v }
  | .wy => { b with wy := v }
  | .wx => { b with wx := v }

/-- Write one register of the bank. -/
def State.setReg (s : State) (r : Reg) (v : Byte) : State := { s with regs := s.regs.set r v }

/-- Write the phase register. -/
def State.setPhase (s : State) (p : Phase) : State := { s with phase := p }

/-- Write one of the tracker's flags. -/
def State.setArmed (s : State) (m : Mode) (b : Bool) : State := { s with armed := s.armed.set m b }

/-- Write hardware memory. -/
def State.setMem (s : State) (m : Memory) : State := { s with mem := m }

/-- What the host operation returns; `none` for the seven that return nothing (R106). -/
def State.respond (s : State) (r : Option Response) : State := { s with response := r }

/-- A host write to STAT (R37): bits 7:3 as written; if the write would change any of bits 2:0, those
three become a fresh arbitrary value. -/
def State.hostWriteStat (s : State) (new : Byte) : State :=
  if engineBits new = engineBits s.regs.stat then s.setReg .stat new
  else { s.setReg .stat (undefinedStat new (Config.freeByte s.draws)) with draws := s.draws + 1 }

/-- A host write to a register: STAT by R37, every other one plain storage (R133). -/
def State.hostWriteReg (s : State) (r : Reg) (new : Byte) : State :=
  if r = .stat then s.hostWriteStat new else s.setReg r new

/-! ### When a host operation is accepted (R130, R217) -/

/-- An operation that changes state: only while no frame is in progress. Inside a notification window it
is refused for the reason given (R217), elsewhere in a frame as R130 and R247 say. -/
def whenIdle (s : State) (inWindow : Refusal) (k : Host.Outcome State Fault Refusal) :
    Host.Outcome State Fault Refusal :=
  if s.attached then
    if s.window.isSome then .refused inWindow
    else if s.phase = .wait then k
    else .refused .frameInProgress
  else .refused .notAttached

/-- A read: also inside a notification window (R130, R217). -/
def whenReadable (s : State) (k : Host.Outcome State Fault Refusal) :
    Host.Outcome State Fault Refusal :=
  if s.attached then
    if s.window.isSome then k
    else if s.phase = .wait then k
    else .refused .frameInProgress
  else .refused .notAttached

/-- INIT: the only operation accepted while the instance is not attached (R130, R131). -/
def whenUnattached (s : State) (k : Host.Outcome State Fault Refusal) :
    Host.Outcome State Fault Refusal :=
  if s.window.isSome then .refused .frameInProgress
  else if s.phase = .wait then
    if s.attached then .refused .alreadyAttached else k
  else .refused .frameInProgress

/-! ### The configuration error (R221, R222) -/

/-- `raise CfgError(info)`: the host is told, nothing else changes, and the instance goes on unattached. -/
def raiseCfgError (s : State) (info : Nat) : State :=
  s.respond (some (.error Config.cfgErrorCode info))

/-! ### The notification (R211 to R218) -/

/-- `Notify()` for mode `m` inside step `k` (R214): the firing is traced, and with a sink the window opens
and the step stops there (R216). Nothing is saved but the step that was stopped. -/
def notify (k : Interrupted) (m : Mode) (s : State) : State :=
  { s with
    irqTrace := s.irqTrace ++ [{ ly := s.regs.ly, mode := m, sink := s.sink }]
    window := if s.sink then some k else s.window }

/-- `Query(m)` inside step `k` (R212). -/
def query (k : Interrupted) (m : Mode) (s : State) : State :=
  if s.armed.get m && cond s.regs.stat m then notify k m (s.setArmed m false) else s

/-- `x[STAT][2] <- (x[LY] == x[LYC])` (R44). -/
def State.updateMatch (s : State) : State :=
  s.setReg .stat (withMatch s.regs.stat (lineMatch s.regs))

/-- `EnterMode(m)` inside step `k` (R190). -/
def enterMode (k : Interrupted) (m : Mode) (s : State) : State :=
  query k m (((s.setReg .stat (withMode s.regs.stat m)).updateMatch).setArmed m true)

/-- `PollMode(m)` inside step `k` (R191): as an entry, but MODE is not written and nothing is re-armed. -/
def pollMode (k : Interrupted) (m : Mode) (s : State) : State :=
  query k m s.updateMatch

/-- Creating an instance (R240): refused when TILE_BASE_SIGNED is configured above 0xF000 (R85, U10). -/
def createInstance (blank : Byte) (tileBaseSigned bufSize : Nat) (u : PowerUp) :
    Host.Outcome State Fault Refusal :=
  if h : tileBaseSigned < 0xF001 then
    .next (State.created { blank := blank, tileBaseSigned := ⟨tileBaseSigned, h⟩ } bufSize u)
  else .refused .badConfiguration

/-- The refusal a word that decodes to nothing ends in (R111, R116). -/
def refusalOf : DecodeError → Refusal
  | .reservedEncoding => .reservedEncoding
  | .badBurst => .badBurst
  | .resting => .reservedEncoding

end Sys2Proof.Machine
end

