-- ==== Sys2Proof/Machine/HostOps.lean ====
section
/-! DEFINITION. The meanings of the ten host operations (R130 to R143). -/

namespace Sys2Proof.Machine

/-- INIT (R131): changes nothing but `attached`; over a buffer smaller than 64 KiB it returns CfgError and
the instance stays unattached (R222). -/
def execInit (s : State) : Host.Outcome State Fault Refusal :=
  whenUnattached s <|
    if s.bufSize < Config.memSize then .next (raiseCfgError s s.bufSize)
    else .next { s.respond (some .initDone) with attached := true }

/-- RDREG r (R132): returns the stored byte, no side effect. -/
def execRdreg (r : Reg) (s : State) : Host.Outcome State Fault Refusal :=
  whenReadable s (.next (s.respond (some (.byte (s.regs.get r)))))

/-- WRREG r, v (R133). -/
def execWrreg (r : Reg) (v : Byte) (s : State) : Host.Outcome State Fault Refusal :=
  whenIdle s .frameInProgress (.next ((s.hostWriteReg r v).respond none))

/-- SETF r, m (R134). -/
def execSetf (r : Reg) (m : Byte) (s : State) : Host.Outcome State Fault Refusal :=
  if r.isFlagReg then
    whenIdle s .frameInProgress (.next ((s.hostWriteReg r (s.regs.get r ||| m)).respond none))
  else .refused .reservedEncoding

/-- CLRF r, m (R135). -/
def execClrf (r : Reg) (m : Byte) (s : State) : Host.Outcome State Fault Refusal :=
  if r.isFlagReg then
    whenIdle s .frameInProgress (.next ((s.hostWriteReg r (s.regs.get r &&& ~~~m)).respond none))
  else .refused .reservedEncoding

/-- RDMEM a (R136): returns the stored byte, no side effect. -/
def execRdmem (a : Addr) (s : State) : Host.Outcome State Fault Refusal :=
  whenReadable s (.next (s.respond (some (.byte (s.mem.read a.toNat)))))

/-- WRMEM a, v (R137). -/
def execWrmem (a : Addr) (v : Byte) (s : State) : Host.Outcome State Fault Refusal :=
  whenIdle s .frameInProgress (.next ((s.setMem (s.mem.write a.toNat v)).respond none))

/-- LDOAM (R138): all 160 bytes of the object table as one atomic step. -/
def execLdoam (burst : List Byte) (s : State) : Host.Outcome State Fault Refusal :=
  if burst.length = Config.oamBytes then
    whenIdle s .frameInProgress
      (.next ((s.setMem (s.mem.writeBytes Config.offOam burst)).respond none))
  else .refused .badBurst

/-- RENDER c0, c1, c2, c3 (R140): latches the output palette and starts the sequencer. -/
def execRender (c0 c1 c2 c3 : Byte) (s : State) : Host.Outcome State Fault Refusal :=
  whenIdle s .reentrantRender
    (.next { s.respond none with opal := { c0 := c0, c1 := c1, c2 := c2, c3 := c3 }, phase := .start })

/-- SETIRQ e (R141). -/
def execSetirq (e : Bool) (s : State) : Host.Outcome State Fault Refusal :=
  whenIdle s .frameInProgress (.next { s.respond none with sink := e })

end Sys2Proof.Machine
end

