-- ==== Sys2Proof/Machine/Operands.lean ====
section
/-! DEFINITION. What the data the block interprets selects (R114): the polarity of the select flags (R34), the two
tile addressing modes (R16), the three palette registers, and the output palette indexed by shade (R105). -/

namespace Sys2Proof.Machine

/-- The two ways a tile index selects a tile (R151, R152). -/
inductive Addressing where
  | unsigned | signed
deriving DecidableEq, Repr

/-- The palette register that translates a pixel (R170): BGP, OBP0 or OBP1. -/
inductive PaletteReg where
  | bgp | obp0 | obp1
deriving DecidableEq, Repr

/-- BG_MAP and WIN_MAP: 0 selects tile map 0, 1 selects tile map 1 (R34). -/
def mapBase (sel : Bool) : Nat := if sel then Config.offMap1 else Config.offMap0

/-- TILE_DATA: 1 selects unsigned addressing, 0 signed (R34). -/
def layerAddressing (lcdc : Byte) : Addressing := if tileData lcdc then .unsigned else .signed

/-- The base the callers of the tile decoder pass with an addressing mode (R151, R152). -/
def tileBase (p : Config.Params) : Addressing → Nat
  | .unsigned => Config.offTile
  | .signed => p.tileBaseSigned.val

/-- OBJ_SIZE: 0 selects 8-row sprites, 1 selects 16-row ones (R34, R160). -/
def spriteHeight (size16 : Bool) : Nat := if size16 then 16 else 8

/-- PAL: 0 selects OBP0, 1 selects OBP1 (R77, R179). -/
def objPalette (pal : Bool) : PaletteReg := if pal then .obp1 else .obp0

/-- The byte of a palette register. -/
def RegBank.palette (r : RegBank) : PaletteReg → Byte
  | .bgp => r.bgp
  | .obp0 => r.obp0
  | .obp1 => r.obp1

/-- `opal[s]` (R105, R179). -/
def OutPalette.at (o : OutPalette) (shade : TwoBit) : Byte :=
  match shade.toNat with
  | 0 => o.c0
  | 1 => o.c1
  | 2 => o.c2
  | _ => o.c3

end Sys2Proof.Machine
end

