-- ==== Sys2Proof/Machine/Scanner.lean ====
section
/-! DEFINITION. The Sprite OAM Scanner (R160 to R168): the visibility search with the ten-sprite limit, and the tile
and row of a selected sprite. Vertical comparisons are between integers, nothing wraps (R168). -/

namespace Sys2Proof.Machine

/-! ### Fields of an object record (R77) -/

/-- Address of byte `k` of record `i`. -/
def objAddress (i : Fin 40) (k : Nat) : Nat := Config.offOam + Config.oamRec * i.val + k

/-- The stored y. -/
def objY (m : Memory) (i : Fin 40) : Byte := m.read (objAddress i 0)
/-- The stored x. -/
def objX (m : Memory) (i : Fin 40) : Byte := m.read (objAddress i 1)
/-- The tile index, always unsigned addressing from OFF_TILE. -/
def objTile (m : Memory) (i : Fin 40) : Byte := m.read (objAddress i 2)
/-- The attribute flags. -/
def objFlags (m : Memory) (i : Fin 40) : Byte := m.read (objAddress i 3)

/-- PRIO. -/
def flagPrio (f : Byte) : Bool := f.getLsbD 7
/-- VFLIP. -/
def flagVflip (f : Byte) : Bool := f.getLsbD 6
/-- HFLIP. -/
def flagHflip (f : Byte) : Bool := f.getLsbD 5
/-- PAL. -/
def flagPal (f : Byte) : Bool := f.getLsbD 4

/-! ### The search -/

/-- Whether a sprite stored at `y` vertically covers the line:
`y − 16 ≤ line` and `line < y − 16 + h`, in ℤ (R160). -/
def covers (line : Nat) (size16 : Bool) (y : Byte) : Bool :=
  decide ((y.toNat : Int) - Config.yOfs ≤ line ∧
    (line : Int) < (y.toNat : Int) - Config.yOfs + spriteHeight size16)

/-- Whether the scan may select record `i` for the line: with 16-row sprites only even records are
considered (R163). Neither x, tile, flags nor OBJ_EN is looked at (R161). -/
def selectable (m : Memory) (line : Nat) (size16 : Bool) (i : Fin 40) : Bool :=
  (!size16 || i.val % 2 == 0) && covers line size16 (objY m i)

/-- `scan`: in ascending table index, the first ten records that cover the line (R160, R166). -/
def scan (m : Memory) (line : Nat) (size16 : Bool) : List (Fin 40) :=
  ((List.finRange 40).filter (selectable m line size16)).take Config.maxSprites

/-- The row of a sprite that a line hits: `line + 16 − y`, in ℤ; 0 .. h − 1 for a record selected for the
line (R164). -/
def hitRow (m : Memory) (i : Fin 40) (line : Nat) : Int :=
  (line : Int) + Config.yOfs - (objY m i).toNat

/-- `sprite_row`: the tile and the row of it to decode, before any flip. In the lower half of a 16-row sprite
the next tile, modulo 256 (R164, R165). -/
def spriteRow (m : Memory) (i : Fin 40) (line : Nat) (size16 : Bool) : Byte × TileCoord :=
  let r := hitRow m i line
  if size16 ∧ 8 ≤ r then (objTile m i + 1, BitVec.ofInt 3 (r - 8)) else (objTile m i, BitVec.ofInt 3 r)

end Sys2Proof.Machine
end

