-- ==== Sys2Proof/Machine/Tile.lean ====
section
/-! DEFINITION. The Tile Decoder: three functions with no state (R150 to R155). -/

namespace Sys2Proof.Machine

/-- The effective tile number: the index itself, or its 8-bit two's-complement negation taken as an
unsigned number (R151, R152). -/
def effectiveTile (mode : Addressing) (tile : Byte) : Byte :=
  match mode with
  | .unsigned => tile
  | .signed => 0#8 - tile

/-- The address of the low plane byte of a tile row: `tile_base + 16 * eff + 2 * row`, integer products
with no wrap (R151, R152, R155). -/
def rowAddress (base : Nat) (mode : Addressing) (tile : Byte) (row : TileCoord) : Nat :=
  base + Config.tileBytes * (effectiveTile mode tile).toNat + 2 * row.toNat

/-- `decode_row`: the two raw bit-plane bytes of one row of a tile, low plane first (R151, R152). -/
def decodeRow (m : Memory) (base : Nat) (mode : Addressing) (tile : Byte) (row : TileCoord) :
    Byte × Byte :=
  (m.read (rowAddress base mode tile row), m.read (rowAddress base mode tile row + 1))

/-- `palette_index`: bit `7 − column` of each plane, high plane in bit 1 (R153). -/
def paletteIndex (planes : Byte × Byte) (column : TileCoord) : TwoBit :=
  BitVec.ofBool (planes.2.getLsbD (7 - column.toNat)) ++
    BitVec.ofBool (planes.1.getLsbD (7 - column.toNat))

/-- `color`: the 2-bit field of a palette byte at position `2 * palette_index` (R154). -/
def color (idx : TwoBit) (palette : Byte) : TwoBit := palette.extractLsb' (2 * idx.toNat) 2

end Sys2Proof.Machine
end

