-- ==== Sys2Proof/Machine/Compositor.lean ====
section
/-! DEFINITION. The Frame Compositor (R170 to R184): one pixel, one line, and the blank frame. Differences and
comparisons are in ℤ; only the scrolled coordinates and the lower half's tile wrap (R182). -/

namespace Sys2Proof.Machine

/-! ### Background and window -/

/-- The window's left column, `x[WX] − 7`, which may be negative (R171). -/
def windowLeft (s : State) : Int := (s.regs.wx.toNat : Int) - Config.wxOfs

/-- Step 1's test: window enabled and the pixel inside its rectangle (R171). -/
def windowCovers (s : State) (line col : Nat) : Bool :=
  winEn s.regs.lcdc && decide (s.regs.wy.toNat ≤ line ∧ windowLeft s ≤ col)

/-- `layer_index`: the palette index of pixel (px, py) of the layer whose tile map starts at `map`; the
coordinates are 0..255 and split by `>> 3` and `& 7` (R174, R76). -/
def layerIndex (s : State) (map px py : Nat) : TwoBit :=
  let tile := s.mem.read (map + Config.mapDim * (py / 8) + px / 8)
  let mode := layerAddressing s.regs.lcdc
  paletteIndex (decodeRow s.mem (tileBase s.cfg mode) mode tile (BitVec.ofNat 3 py)) (BitVec.ofNat 3 px)

/-- The window's own coordinates have their origin at its top-left corner (R171). -/
def windowIndex (s : State) (line col : Nat) : TwoBit :=
  layerIndex s (mapBase (winMap s.regs.lcdc)) ((col : Int) - windowLeft s).toNat
    (line - s.regs.wy.toNat)

/-- The background is a 256×256 torus (R172). -/
def backgroundIndex (s : State) (line col : Nat) : TwoBit :=
  layerIndex s (mapBase (bgMap s.regs.lcdc)) ((col + s.regs.scx.toNat) % 256)
    ((line + s.regs.scy.toNat) % 256)

/-- `bgwin_index`: window, else background, else 0 (R171 to R174). -/
def bgwinIndex (s : State) (line col : Nat) : TwoBit :=
  if windowCovers s line col then windowIndex s line col
  else if bgEn s.regs.lcdc then backgroundIndex s line col
  else 0

/-! ### Sprites -/

/-- Mirroring a row or a column inside 0..7 (R176, R182). -/
def mirror (flip : Bool) (c : TileCoord) : TileCoord := if flip then 7 - c else c

/-- The column inside the sprite, `col + 8 − x`, in ℤ (R176). -/
def spriteColumn (m : Memory) (i : Fin 40) (col : Nat) : Int :=
  (col : Int) + Config.xOfs - (objX m i).toNat

/-- `sprite_index`: the sprite's palette index at a column, or `none` when it does not cover the column
(R176). Tiles of sprites are never signed. -/
def spriteIndex (s : State) (i : Fin 40) (line col : Nat) : Option TwoBit :=
  let c := spriteColumn s.mem i col
  if 0 ≤ c ∧ c ≤ 7 then
    let f := objFlags s.mem i
    let tr := spriteRow s.mem i line (objSize s.regs.lcdc)
    some (paletteIndex
      (decodeRow s.mem Config.offTile .unsigned tr.1 (mirror (flagVflip f) tr.2))
      (mirror (flagHflip f) (BitVec.ofInt 3 c)))
  else none

/-- The two working values of R170: the final palette index and the register that translates it. -/
structure Pixel where
  idx  : TwoBit
  preg : PaletteReg
deriving DecidableEq, Repr

/-- Whether PRIO holds the sprite back: the flag is set and the background/window index of the pixel, not
the running one, is not 0 (R177). -/
def heldBack (s : State) (i : Fin 40) (bgidx : TwoBit) : Bool :=
  flagPrio (objFlags s.mem i) && bgidx != 0

/-- One turn of step 4's loop (R170, R177): index 0 is transparent, PRIO may hold the sprite back. -/
def drawSprite (s : State) (line col : Nat) (bgidx : TwoBit) (i : Fin 40) (p : Pixel) : Pixel :=
  match spriteIndex s i line col with
  | none => p
  | some q =>
    if q = 0 ∨ heldBack s i bgidx then p
    else { idx := q, preg := objPalette (flagPal (objFlags s.mem i)) }

/-- Step 4: the line's selected sprites in reverse selection order, so that the lowest index is drawn last
(R175). `foldr` draws the end of the list first. -/
def drawSprites (s : State) (line col : Nat) (bgidx : TwoBit) (p : Pixel) : Pixel :=
  if objEn s.regs.lcdc then s.sb.foldr (drawSprite s line col bgidx) p else p

/-- Steps 1 to 4: the final palette index and its register (R170). -/
def resolve (s : State) (line col : Nat) : Pixel :=
  let bgidx := bgwinIndex s line col
  drawSprites s line col bgidx { idx := bgidx, preg := .bgp }

/-- `pixel(line, col)`: the output byte (R170, R179). -/
def pixel (s : State) (line col : Nat) : Byte :=
  let p := resolve s line col
  s.opal.at (color p.idx (s.regs.palette p.preg))

/-! ### A line, and the blank frame -/

/-- The 160 pixels of a line (R183). -/
def lineOf (s : State) (line : Nat) : Vector Byte 160 := Vector.ofFn fun col => pixel s line col.val

/-- `composite_line(line)` (R183). The frame buffer has lines 0..143 only (R48). -/
def compositeLine (s : State) (line : Nat) : State :=
  { s with fb := s.fb.setIfInBounds line (lineOf s line) }

/-- `blank_fill()` (R184): every byte of the frame buffer; no memory and no register is read. -/
def blankFill (s : State) : State :=
  { s with fb := Vector.replicate 144 (Vector.replicate 160 s.cfg.blank) }

end Sys2Proof.Machine
end

