-- ==== Sys2Proof/Machine/Sequencer.lean ====
section
/-! DEFINITION. The meanings of the eight sequencer steps (R190 to R204). A step that queries the tracker is written in
two parts, what comes before the point where a notification window may open and the rest (R194, R216), so
that the host acts between them and the rest runs when the window closes (R218). -/

namespace Sys2Proof.Machine

/-- `sb <- scan(line, OBJ_SIZE)` (R160). -/
def scanLine (s : State) (line : Nat) : State :=
  { s with sb := scan s.mem line (objSize s.regs.lcdc) }

/-- What is left of a step after the query, when its window has closed or none opened
(R195 to R200). -/
def finishStep : Interrupted → State → State
  | .sqBegin, s => (scanLine s 0).setPhase .oam
  | .sqXfer, s => (compositeLine s s.regs.ly.toNat).setPhase .xfer
  | .sqHbl, s => s.setPhase .hbl
  | .sqLine, s => (scanLine s s.regs.ly.toNat).setPhase .oam
  | .sqVbl, s => s.setPhase .vbl
  | .sqVline, s => s

/-- After the query: stop if a window opened, else go on (R216). -/
def continueStep (k : Interrupted) (s : State) : State :=
  if s.window.isSome then s else finishStep k s

/-- The host closes the window and the stopped step resumes where it stopped (R218). -/
def resumeStep (s : State) : Host.Outcome State Fault Refusal :=
  match s.window with
  | some k => .next (finishStep k { s with window := none })
  | none => .refused .noWindowOpen

/-- SQ_BLANK (R193): the blank frame, and nothing else happens. -/
def execSqBlank (s : State) : Host.Outcome State Fault Refusal :=
  .next ((blankFill s).setPhase .wait)

/-- SQ_BEGIN (R195). -/
def execSqBegin (s : State) : Host.Outcome State Fault Refusal :=
  .next (continueStep .sqBegin (enterMode .sqBegin .oam (s.setReg .ly 0)))

/-- SQ_XFER (R196). -/
def execSqXfer (s : State) : Host.Outcome State Fault Refusal :=
  .next (continueStep .sqXfer (enterMode .sqXfer .xfer s))

/-- SQ_HBL (R197). -/
def execSqHbl (s : State) : Host.Outcome State Fault Refusal :=
  .next (continueStep .sqHbl (enterMode .sqHbl .hbl s))

/-- SQ_LINE (R198): LY is advanced before the mode is entered. -/
def execSqLine (s : State) : Host.Outcome State Fault Refusal :=
  .next (continueStep .sqLine (enterMode .sqLine .oam (s.setReg .ly (s.regs.ly + 1))))

/-- SQ_VBL (R199): the only entry to VERTICAL_BLANK in a frame. -/
def execSqVbl (s : State) : Host.Outcome State Fault Refusal :=
  .next (continueStep .sqVbl (enterMode .sqVbl .vbl (s.setReg .ly 144)))

/-- SQ_VLINE (R200): LY advances, the mode is polled, nothing is re-armed. -/
def execSqVline (s : State) : Host.Outcome State Fault Refusal :=
  .next (continueStep .sqVline (pollMode .sqVline .vbl (s.setReg .ly (s.regs.ly + 1))))

/-- SQ_END (R201): RENDER returns; LY stays 153. -/
def execSqEnd (s : State) : Host.Outcome State Fault Refusal :=
  .next (s.setPhase .wait)

end Sys2Proof.Machine
end

