-- ==== Sys2Proof/Machine/Dispatch.lean ====
section
/-! DEFINITION. One arm per operation of spec/opcode_table.json. -/

namespace Sys2Proof.Machine

/-- The meaning of one operation. -/
def exec (i : Instr) (s : State) : Host.Outcome State Fault Refusal :=
  match i with
  -- host operations
  | .init => Sys2Proof.Machine.execInit s
  | .rdreg r => Sys2Proof.Machine.execRdreg r s
  | .wrreg r v => Sys2Proof.Machine.execWrreg r v s
  | .setf r m => Sys2Proof.Machine.execSetf r m s
  | .clrf r m => Sys2Proof.Machine.execClrf r m s
  | .rdmem a => Sys2Proof.Machine.execRdmem a s
  | .wrmem a v => Sys2Proof.Machine.execWrmem a v s
  | .ldoam burst => Sys2Proof.Machine.execLdoam burst s
  | .render c0 c1 c2 c3 => Sys2Proof.Machine.execRender c0 c1 c2 c3 s
  | .setirq e => Sys2Proof.Machine.execSetirq e s
  -- sequencer steps
  | .sqBlank => Sys2Proof.Machine.execSqBlank s
  | .sqBegin => Sys2Proof.Machine.execSqBegin s
  | .sqXfer => Sys2Proof.Machine.execSqXfer s
  | .sqHbl => Sys2Proof.Machine.execSqHbl s
  | .sqLine => Sys2Proof.Machine.execSqLine s
  | .sqVbl => Sys2Proof.Machine.execSqVbl s
  | .sqVline => Sys2Proof.Machine.execSqVline s
  | .sqEnd => Sys2Proof.Machine.execSqEnd s

end Sys2Proof.Machine
end

