-- ==== Sys2Proof/Machine/Port.lean ====
section
/-! DEFINITION. What the block fetches: the host's next action while it is the host's turn, otherwise the selection word
the sequencer forms from its own state (R14, R101, R107, R112). `step` only calls these. -/

namespace Sys2Proof.Machine

/-- It is the host's turn while no frame is in progress and inside a notification window (R14, R130). -/
def State.hostTurn (s : State) : Bool := s.window.isSome || s.phase == .wait

/-- The condition bit `c` of the selection word (R107). At OAM and XFER it is not examined, and at WAIT there
is no step; the model writes 0 there (log 9). -/
def State.conditionBit (s : State) : Bool :=
  match s.phase with
  | .start => lcdEn s.regs.lcdc
  | .hbl => s.regs.ly == Config.lastVisible
  | .vbl => s.regs.ly == Config.lastLine
  | .oam | .xfer | .wait => false

/-- `sel = phase ++ c` (R107). -/
def State.selectionWord (s : State) : SelWord := encodeSel s.phase s.conditionBit

/-- The host offers a buffer: the operand of a later INIT (R131). The block takes its memory once, so an
attached instance takes no other (log 6). -/
def offerBuffer (size : Nat) (cells : List Host.Cell) (s : State) : Host.Outcome State Fault Refusal :=
  if s.attached then .refused .alreadyAttached
  else .next { s.setMem (Memory.ofCells cells []) with bufSize := size }

/-- Run what was fetched; a word that decodes to nothing is refused (R111). -/
def execFetched (f : Fetched) (s : State) : Host.Outcome State Fault Refusal :=
  match decode f with
  | .ok i => exec i s
  | .error e => .refused (refusalOf e)

/-- The host waits for RENDER to return (R106): it closes a window that is open and goes on waiting; when no
frame is in progress the wait is over (log 22). -/
def awaitFrame (s : State) : Host.Outcome State Fault Refusal :=
  if s.window.isSome then resumeStep { s with inbox := .awaitFrame :: s.inbox } else .next s

/-- One action of the host, already taken from the inbox. -/
def hostAct : HostInput → State → Host.Outcome State Fault Refusal
  | .command w burst, s => execFetched (.host w burst) s
  | .closeWindow, s => resumeStep s
  | .awaitFrame, s => awaitFrame s
  | .offerBuffer size cells, s => offerBuffer size cells s

/-- The host's turn: its next action, or rest while it has none (R112; R219 inside a window). -/
def hostStep (s : State) : Host.Outcome State Fault Refusal :=
  match s.inbox with
  | [] => .next s
  | a :: rest => hostAct a { s with inbox := rest }

/-- The sequencer's turn (R108). -/
def sequencerStep (s : State) : Host.Outcome State Fault Refusal :=
  execFetched (.sel s.selectionWord) s

/-! ### Placing a table word where the next step fetches it -/

/-- Present a command word to a block that accepts it: no frame in progress, and attached unless the word
is INIT's (R130; log 10). -/
def State.presentCommand (s : State) (w : CommandWord) (burst : List Byte) : State :=
  { s with phase := .wait, window := none
           attached := fieldOp w != HostOp.init.opcode
           inbox := .command w burst :: s.inbox }

/-- LY as the position a selection word stands for has it (R107, R108): kept where it fits. -/
def selectedLine (p : Phase) (c : Bool) (ly : Byte) : Byte :=
  match p, c with
  | .hbl, true => Config.lastVisible
  | .hbl, false => if ly < Config.lastVisible then ly else 0
  | .vbl, true => Config.lastLine
  | .vbl, false => if Config.lastVisible < ly ∧ ly < Config.lastLine then ly else 144
  | .oam, _ | .xfer, _ | .wait, _ | .start, _ => ly

/-- LCDC with LCD_EN as a selection word at START has it (R107). -/
def selectedLcdc (p : Phase) (c : Bool) (lcdc : Byte) : Byte :=
  if p = .start then BitVec.ofBool c ++ lcdc.extractLsb' 0 7 else lcdc

/-- Put the sequencer at the position a selection word stands for (R108; log 10). -/
def State.presentSelection (s : State) (w : SelWord) : State :=
  match Phase.ofCode (w.extractLsb' 1 3) with
  | some p =>
    { (s.setReg .lcdc (selectedLcdc p (w.getLsbD 0) s.regs.lcdc)).setReg .ly
        (selectedLine p (w.getLsbD 0) s.regs.ly) with phase := p, window := none }
  | none => s

/-- Place what a table word stands for. -/
def State.present (s : State) : Fetched → State
  | .host w burst => s.presentCommand w burst
  | .sel w => s.presentSelection w

end Sys2Proof.Machine
end

