-- ==== Sys2Proof/Machine/Step.lean ====
section
/-! DEFINITION. One step of the machine, and placing an instruction for it. -/

namespace Sys2Proof.Machine

/-- One step: the host acts while it is its turn, else the sequencer takes its next step (R14). -/
def step (s : State) : Host.Outcome State Fault Refusal :=
  if s.hostTurn then hostStep s else sequencerStep s

/-- `s` with the table word placed so that the very next step runs it: a command word as the host's next
action, a selection word as the sequencer position it is formed from (R107). -/
def State.withFetchWord (s : State) (nbits w : Nat) : State :=
  match ofTableWord nbits w with
  | some f => s.present f
  | none => s

end Sys2Proof.Machine
end

