-- ==== Sys2Proof/Safety.lean ====
section
/-! DEFINITION. The terms statements are made in: when the block is idle, what a mode entry leaves, the invariant
every step keeps, how much of a frame is drawn, and which runs are safe. -/

namespace Sys2Proof.Machine

/-! ### Where the block stands -/

/-- A host operation is accepted: attached, no frame in progress (R130). -/
def State.Idle (s : State) : Prop := s.attached = true ∧ s.window = none ∧ s.phase = .wait

/-- RDREG and RDMEM are accepted: idle, or inside a notification window (R130, R217). -/
def State.Readable (s : State) : Prop := s.attached = true ∧ (s.window ≠ none ∨ s.phase = .wait)

/-- The mode a phase is, WAIT and START being none (R43). -/
def modeOfPhase : Phase → Option Mode
  | .hbl => some .hbl
  | .vbl => some .vbl
  | .oam => some .oam
  | .xfer => some .xfer
  | .wait | .start => none

/-- The mode a step enters or polls (R192). -/
def Interrupted.mode : Interrupted → Mode
  | .sqBegin | .sqLine => .oam
  | .sqXfer => .xfer
  | .sqHbl => .hbl
  | .sqVbl | .sqVline => .vbl

/-- The sequencer step a window can stop (R216). -/
def Interrupted.instr : Interrupted → Instr
  | .sqBegin => .sqBegin
  | .sqXfer => .sqXfer
  | .sqHbl => .sqHbl
  | .sqLine => .sqLine
  | .sqVbl => .sqVbl
  | .sqVline => .sqVline

/-- The line LY holds once the step has written it (R195 to R200). -/
def Interrupted.line (k : Interrupted) (s : State) : Byte :=
  match k with
  | .sqBegin => 0
  | .sqXfer | .sqHbl => s.regs.ly
  | .sqLine | .sqVline => s.regs.ly + 1
  | .sqVbl => 144

/-- Whether the step enters its mode; SQ_VLINE only polls (R190, R191). -/
def Interrupted.enters : Interrupted → Bool
  | .sqVline => false
  | .sqBegin | .sqXfer | .sqHbl | .sqLine | .sqVbl => true

/-- Whether `cond(m)` holds at line `ly` with these enables (R213): the mode's own enable, or the line
compare and its enable. -/
def condAt (stat lyc : Byte) (m : Mode) (ly : Byte) : Bool :=
  modeEnable stat m || (ieLyc stat && ly == lyc)

/-- Whether the step's query fires (R212): an entry has just armed its flag, a poll finds it as it is. -/
def Interrupted.fires (k : Interrupted) (s : State) : Bool :=
  (k.enters || s.armed.get k.mode) && condAt s.regs.stat s.regs.lyc k.mode (k.line s)

/-- Whether a window opens inside the step (R214). -/
def Interrupted.delivered (k : Interrupted) (s : State) : Bool := k.fires s && s.sink

/-- What step `k` has done when its query is over (R190, R191, R212, R214): LY and STAT[2:0] written, the other
registers and STAT[7:3] not; the mode's flag armed by an entry and cleared by a firing, the other three not;
the firing traced. -/
def Interrupted.Queried (k : Interrupted) (s t : State) : Prop :=
  t.regs.ly = k.line s ∧
  modeField t.regs.stat = (if k.enters then modeCode k.mode else modeField s.regs.stat) ∧
  matchFlag t.regs.stat = (k.line s == s.regs.lyc) ∧
  hostBits t.regs.stat = hostBits s.regs.stat ∧
  (∀ r, r ≠ .ly → r ≠ .stat → t.regs.get r = s.regs.get r) ∧
  t.armed.get k.mode = ((k.enters || s.armed.get k.mode) && !k.fires s) ∧
  (∀ m, m ≠ k.mode → t.armed.get m = s.armed.get m) ∧
  t.irqTrace = s.irqTrace ++
    (if k.fires s then [{ ly := k.line s, mode := k.mode, sink := s.sink }] else [])

/-! ### The invariant -/

/-- `sb.n ≤ 10` and `sb.idx` strictly ascending (R45, R53). -/
abbrev SpritesOk (sb : List (Fin 40)) : Prop := sb.length ≤ Config.maxSprites ∧ sb.Pairwise (· < ·)

/-- Where LY can be at each sequencer position, between steps and inside the step a window stopped
(R43, R192, R216). -/
def PositionOk (window : Option Interrupted) (phase : Phase) (ly : Byte) : Prop :=
  match window with
  | none =>
    match phase with
    | .hbl | .oam | .xfer => ly.toNat ≤ 143
    | .vbl => 144 ≤ ly.toNat ∧ ly.toNat ≤ 153
    | .wait | .start => True
  | some .sqBegin => phase = .start ∧ ly.toNat = 0
  | some .sqXfer => phase = .oam ∧ ly.toNat ≤ 143
  | some .sqHbl => phase = .xfer ∧ ly.toNat ≤ 143
  | some .sqLine => phase = .hbl ∧ 1 ≤ ly.toNat ∧ ly.toNat ≤ 143
  | some .sqVbl => phase = .hbl ∧ ly.toNat = 144
  | some .sqVline => phase = .vbl ∧ 145 ≤ ly.toNat ∧ ly.toNat ≤ 153

/-- The mode STAT shows: the one a window's step has just entered or polled, else the phase's own (R43, R216). -/
def State.shownMode (s : State) : Option Mode :=
  match s.window with
  | some k => some k.mode
  | none => modeOfPhase s.phase

/-- What every step keeps, from every state that has it. -/
structure Inv (s : State) : Prop where
  /-- Memory is in its canonical form. -/
  memory    : s.mem.wf
  /-- R53 (2). -/
  sprites   : SpritesOk s.sb
  /-- R53 (1) and R192: LY fits the sequencer position. -/
  position  : PositionOk s.window s.phase s.regs.ly
  /-- A frame is in progress only on an attached instance (R130). -/
  attached  : s.attached = false → s.phase = .wait ∧ s.window = none
  /-- A window is open only with a sink installed (R214). -/
  sink      : s.window ≠ none → s.sink = true
  /-- During a frame the display is enabled, STAT.MODE is the mode entered and STAT.MATCH the comparison of
  LY with LYC (R43, R44, R86, R204). -/
  shown     : ∀ m, s.shownMode = some m → lcdEn s.regs.lcdc = true ∧
                modeField s.regs.stat = modeCode m ∧ matchFlag s.regs.stat = (s.regs.ly == s.regs.lyc)
  /-- At OAM and XFER the sprite buffer holds the scan of LY (R43, R45). -/
  scanned   : s.phase = .oam ∨ s.phase = .xfer →
                s.sb = scan s.mem s.regs.ly.toNat (objSize s.regs.lcdc)

/-! ### How much of the frame is drawn -/

/-- Line `l` of the frame in progress: composed with the sprites the scan selects for it (R183, R192). -/
def frameLine (s : State) (l : Nat) : Vector Byte 160 :=
  lineOf { s with sb := scan s.mem l (objSize s.regs.lcdc) } l

/-- How many lines of the frame in progress are in the frame buffer at this position (R192, R252). -/
def linesDone (s : State) : Nat :=
  match s.window with
  | some .sqBegin => 0
  | some .sqXfer | some .sqLine => s.regs.ly.toNat
  | some .sqHbl => s.regs.ly.toNat + 1
  | some .sqVbl | some .sqVline => 144
  | none =>
    match s.phase with
    | .oam => s.regs.ly.toNat
    | .xfer | .hbl => s.regs.ly.toNat + 1
    | .vbl => 144
    | .wait | .start => 0

/-- The lines that are drawn hold their pixels (R53 (3), R252). -/
def FrameProgress (s : State) : Prop :=
  ∀ (l : Nat) (h : l < 144), l < linesDone s → s.fb[l] = frameLine s l

/-! ### The notifications of a frame -/

/-- The firings on visible line `n`: at the OAM_SEARCH, PIXEL_TRANSFER and HORIZONTAL_BLANK entries, in that
order (R192, R213, R220). -/
def lineFirings (stat lyc : Byte) (sink : Bool) (n : Nat) : List TraceEntry :=
  ([Mode.oam, .xfer, .hbl].filter fun m => condAt stat lyc m (BitVec.ofNat 8 n)).map
    fun m => { ly := BitVec.ofNat 8 n, mode := m, sink := sink }

/-- The firing in VERTICAL_BLANK, if any: at the first of lines 144..153 where the condition holds, since
nothing re-arms there (R200, R215). -/
def vblankFiring (stat lyc : Byte) (sink : Bool) : List TraceEntry :=
  (((List.range 10).map (· + 144)).find? fun n => condAt stat lyc .vbl (BitVec.ofNat 8 n)).toList.map
    fun n => { ly := BitVec.ofNat 8 n, mode := .vbl, sink := sink }

/-- All firings of an enabled frame whose enables and LYC are constant (R215). -/
def frameFirings (stat lyc : Byte) (sink : Bool) : List TraceEntry :=
  (List.range 144).flatMap (lineFirings stat lyc sink) ++ vblankFiring stat lyc sink

/-! ### Safe runs -/

/-- A step that stops nowhere: the run goes on (R203, R223). -/
def Safe (s : State) : Prop := ∃ t, step s = .next t

end Sys2Proof.Machine
end

