-- ==== Sys2Proof/Certificates/Slice0/Obligations.lean ====
section
/-! DEFINITION. The statements about this model, one `def Obligations.<Name> : Prop` each. Rule numbers are those of
spec/. A result written as `exec i s = .next { s with … }` says the instruction completes, what it changes, and
that nothing else changes. Where a docstring names a decision D<n>, that clause is the spec's own decision
(spec/92_eei_decisions.md), and where it names a log entry the model's (notes/assumptions/). Bit positions of words,
LCDC, STAT and object flags are D1 to D3 and D18 throughout; the response field is log 11. -/

open Sys2Proof Sys2Proof.Machine

/-! ### Encoding -/

/-- Decoding an encoded well-formed operation gives it back, with every operand at every value (R102 to R108,
R116). -/
def Obligations.DecodeEncodeRoundTrip : Prop :=
  ∀ i : Instr, i.wf = true → decode (encode i) = .ok i

/-- A command word and burst that decode to an operation are that operation's own encoding, and the operation
is well formed: no two operations share a word and no bit is dropped (R102 to R105, R116). -/
def Obligations.HostWordHasOneMeaning : Prop :=
  ∀ (w : CommandWord) (d : List Byte) (i : Instr),
    decode (.host w d) = .ok i → encode i = .host w d ∧ i.wf = true

/-- A command word that matches no row of the opcode table (match and mask as R104 lists them) is refused, whatever
the state, when the host presents it (R111; that it refuses is D22). That this ground is named in every state, also
where R130 or R217 gives another, is the model's choice (log 13). -/
def Obligations.UnmatchedWordsRefused : Prop :=
  ∀ (s : State) (w : CommandWord) (d : List Byte) (rest : List HostInput),
    (∀ r ∈ [((0x0100000000 : CommandWord), (0xFFFFFFFFFF : CommandWord)), (0x0200000000, 0xFFFFFFF0FF),
        (0x0300000000, 0xFFFFFFF000), (0x0400000000, 0xFFFFFFF000), (0x0500000000, 0xFFFFFFF000),
        (0x0600000000, 0xFFFF0000FF), (0x0700000000, 0xFFFF000000), (0x0800000000, 0xFFFFFFFFFF),
        (0x0900000000, 0xFF00000000), (0x0A00000000, 0xFFFFFFFFFE)], w &&& r.2 ≠ r.1) →
    s.hostTurn = true → s.inbox = .command w d :: rest →
    step s = .refused .reservedEncoding

/-- RDREG, WRREG, SETF and CLRF with a register number in {6, 12, 13, 14, 15}, and SETF and CLRF with a number
other than 0 and 1, are reserved encodings (R113; D22). That this ground is named in every state, also where R130
or R217 gives another, is the model's choice (log 13). -/
def Obligations.ReservedRegisterNumbersRefused : Prop :=
  ∀ (s : State) (w : CommandWord) (d : List Byte) (rest : List HostInput),
    s.hostTurn = true → s.inbox = .command w d :: rest →
    (((w.extractLsb' 32 8).toNat ∈ [2, 3, 4, 5] ∧ (w.extractLsb' 8 4).toNat ∈ [6, 12, 13, 14, 15]) ∨
      ((w.extractLsb' 32 8).toNat ∈ [4, 5] ∧ (w.extractLsb' 8 4).toNat ∉ [0, 1])) →
    step s = .refused .reservedEncoding

/-- The length of the burst follows from the opcode alone: 160 bytes after opcode 0x08, none after any other. A
word that some burst completes to an operation is refused as a bad burst with a burst of any other length (R116).
That this ground is named in every state, also where R130 or R217 gives another, is the model's choice (log 13). -/
def Obligations.BurstLengthFixedByOpcode : Prop :=
  ∀ (s : State) (w : CommandWord) (d d' : List Byte) (i : Instr) (rest : List HostInput),
    decode (.host w d') = .ok i → s.hostTurn = true → s.inbox = .command w d :: rest →
    d'.length = (if (w.extractLsb' 32 8).toNat = 8 then 160 else 0) ∧
    (d.length ≠ (if (w.extractLsb' 32 8).toNat = 8 then 160 else 0) → step s = .refused .badBurst)

/-- Words written out from the encoding tables decode to the operations they stand for. -/
def Obligations.SampleWordsDecode : Prop :=
  decode (.host 0x0100000000#40 []) = .ok .init ∧
  decode (.host 0x0200000B00#40 []) = .ok (.rdreg .wx) ∧
  decode (.host 0x0300000091#40 []) = .ok (.wrreg .lcdc 0x91) ∧
  decode (.host 0x0500000120#40 []) = .ok (.clrf .stat 0x20) ∧
  decode (.host 0x07008010C3#40 []) = .ok (.wrmem 0x8010 0xC3) ∧
  decode (.host 0x09FFAA5500#40 []) = .ok (.render 0x00 0x55 0xAA 0xFF) ∧
  decode (.host 0x0A00000001#40 []) = .ok (.setirq true) ∧
  decode (.sel 0b1010#4) = .ok .sqBlank ∧ decode (.sel 0b1011#4) = .ok .sqBegin ∧
  decode (.sel 0b0101#4) = .ok .sqXfer ∧ decode (.sel 0b0011#4) = .ok .sqEnd

/-! ### One step -/

/-- A step runs the decoded operation. On the host's turn, when the command at the head of the inbox decodes to an
operation, the step is that operation run with the command taken from the inbox (the inbox is the model's, log 7); on
the sequencer's turn it is the operation that the selection word decodes to (R14, R86, R107). -/
def Obligations.StepRunsDecoded : Prop :=
  (∀ (s : State) (w : CommandWord) (d : List Byte) (rest : List HostInput) (i : Instr),
    s.hostTurn = true → s.inbox = .command w d :: rest → decode (.host w d) = .ok i →
    step s = exec i { s with inbox := rest }) ∧
  (∀ (s : State) (i : Instr), s.hostTurn = false →
    decode (.sel (encodeSel s.phase s.conditionBit)) = .ok i → step s = exec i s)

/-- Which step is taken next, from the phase and the one condition it examines; at WAIT with nothing from the
host the sequencer rests (R107, R108, R112; that a rest is a step that changes nothing is log 12). -/
def Obligations.SelectionMap : Prop :=
  ∀ s : State, s.window = none →
    (s.phase = .start → lcdEn s.regs.lcdc = false → step s = exec .sqBlank s) ∧
    (s.phase = .start → lcdEn s.regs.lcdc = true → step s = exec .sqBegin s) ∧
    (s.phase = .oam → step s = exec .sqXfer s) ∧
    (s.phase = .xfer → step s = exec .sqHbl s) ∧
    (s.phase = .hbl → s.regs.ly ≠ 143 → step s = exec .sqLine s) ∧
    (s.phase = .hbl → s.regs.ly = 143 → step s = exec .sqVbl s) ∧
    (s.phase = .vbl → s.regs.ly ≠ 153 → step s = exec .sqVline s) ∧
    (s.phase = .vbl → s.regs.ly = 153 → step s = exec .sqEnd s) ∧
    (s.phase = .wait → s.inbox = [] → step s = .next s)

/-- A window the host does not close stays: with nothing from the host the block's state does not change, for
any number of steps (R219; log 12). -/
def Obligations.OpenWindowStays : Prop :=
  ∀ (s : State) (n : Nat), s.window ≠ none → s.inbox = [] → core.run n s = .next s

/-! ### When a host operation is accepted -/

/-- When a host operation is not accepted. Before INIT every other one is refused. While a frame is in progress and no
window is open all ten are refused. Inside a window RENDER is refused as reentrant, and every other operation but
RDREG and RDMEM as a mid-frame mutation (R130, R217, R247; D19, D20; which of two grounds is named is log 13). -/
def Obligations.HostOperationsRefused : Prop :=
  ∀ (i : Instr) (s : State), i.isHost = true → i.wf = true →
    (s.attached = false → i ≠ .init → exec i s = .refused .notAttached) ∧
    (s.attached = true → s.window = none → s.phase ≠ .wait → exec i s = .refused .frameInProgress) ∧
    (s.attached = true → s.window ≠ none → ∀ c0 c1 c2 c3, i = .render c0 c1 c2 c3 →
      exec i s = .refused .reentrantRender) ∧
    (s.attached = true → s.window ≠ none → (∀ r, i ≠ .rdreg r) → (∀ a, i ≠ .rdmem a) →
      (∀ c0 c1 c2 c3, i ≠ .render c0 c1 c2 c3) → exec i s = .refused .frameInProgress)

/-! ### Host operations -/

/-- INIT: over a buffer of at least 65536 bytes it attaches the instance and changes nothing else; over a smaller
one it returns CfgError, code 1, with the offered size, and the instance stays unattached; a second INIT is
refused (R131, R221, R222; D23, D27; that the error is a response and the block goes on is log 5). -/
def Obligations.InitOutcomes : Prop :=
  ∀ s : State, s.window = none → s.phase = .wait →
    (s.attached = false → 65536 ≤ s.bufSize →
      exec .init s = .next { s with attached := true, response := some .initDone }) ∧
    (s.attached = false → s.bufSize < 65536 →
      exec .init s = .next { s with response := some (.error 1 s.bufSize) }) ∧
    (s.attached = true → exec .init s = .refused .alreadyAttached)

/-- RDREG and RDMEM return the stored byte and have no side effect, in WAIT and inside a notification window
(R132, R136, R81). -/
def Obligations.ReadsReturnStoredByte : Prop :=
  ∀ s : State, s.Readable →
    (∀ r : Reg, exec (.rdreg r) s = .next { s with response := some (.byte (s.regs.get r)) }) ∧
    (∀ a : Addr, exec (.rdmem a) s = .next { s with response := some (.byte (s.mem.read a.toNat)) })

/-- WRREG to a register other than STAT stores the byte and changes no other register and nothing else
(R133, R31, R40, R41). -/
def Obligations.WrregStoresByte : Prop :=
  ∀ (s : State) (r : Reg) (v : Byte), s.Idle → r ≠ .stat →
    ∃ t, exec (.wrreg r v) s = .next t ∧ t.regs.get r = v ∧
      (∀ r', r' ≠ r → t.regs.get r' = s.regs.get r') ∧
      t = { s with regs := t.regs, response := none }

/-- A host write of `new` to STAT, by WRREG, SETF or CLRF: bits 7:3 take the written values; bits 2:0 keep theirs
if the write would not change them, else they are those of a fresh arbitrary byte; nothing else changes (R37, R38;
D21). The draw counter is the model's own (log 4); the statement holds for every value of it. -/
def Obligations.HostWriteToStat : Prop :=
  ∀ (s : State) (i : Instr) (new : Byte), s.Idle →
    (i = .wrreg .stat new ∨ (∃ m, i = .setf .stat m ∧ new = s.regs.stat ||| m) ∨
      (∃ m, i = .clrf .stat m ∧ new = s.regs.stat &&& ~~~m)) →
    ∃ t, exec i s = .next t ∧
      hostBits t.regs.stat = hostBits new ∧
      (engineBits new = engineBits s.regs.stat → t.regs.stat = new ∧ t.draws = s.draws) ∧
      (engineBits new ≠ engineBits s.regs.stat →
        engineBits t.regs.stat = engineBits (Config.freeByte s.draws) ∧ t.draws = s.draws + 1) ∧
      (∀ r, r ≠ .stat → t.regs.get r = s.regs.get r) ∧
      t = { s with regs := t.regs, response := none, draws := t.draws }

/-- SETF sets exactly the bits of its mask and CLRF clears exactly them: on LCDC every bit, on STAT every bit of a
mask inside 0xF8 (a mask that reaches STAT[2:0] is HostWriteToStat's). No other register and nothing else changes.
On any other register both are refused, in every state (R134, R135, R113; D22). That this ground is named in every
state, also where R130 or R217 gives another, is the model's choice (log 13). -/
def Obligations.FlagOperations : Prop :=
  ∀ (s : State) (r : Reg) (m : Byte),
    (s.Idle → (r = .lcdc ∨ (r = .stat ∧ m &&& 0x07 = 0)) →
      (∃ t, exec (.setf r m) s = .next t ∧
        (∀ k < 8, (t.regs.get r).getLsbD k = ((s.regs.get r).getLsbD k || m.getLsbD k)) ∧
        (∀ r', r' ≠ r → t.regs.get r' = s.regs.get r') ∧ t = { s with regs := t.regs, response := none }) ∧
      (∃ t, exec (.clrf r m) s = .next t ∧
        (∀ k < 8, (t.regs.get r).getLsbD k = ((s.regs.get r).getLsbD k && !m.getLsbD k)) ∧
        (∀ r', r' ≠ r → t.regs.get r' = s.regs.get r') ∧ t = { s with regs := t.regs, response := none })) ∧
    (r ≠ .lcdc → r ≠ .stat →
      exec (.setf r m) s = .refused .reservedEncoding ∧ exec (.clrf r m) s = .refused .reservedEncoding)

/-- WRMEM stores the byte at its address; every other address reads as before and nothing else changes (R137). The
canonical form of memory is an invariant (InvariantKept). -/
def Obligations.WrmemStoresByte : Prop :=
  ∀ (s : State) (a : Addr) (v : Byte), s.Idle → s.mem.wf →
    ∃ t, exec (.wrmem a v) s = .next t ∧
      (∀ b, t.mem.read b = if b = a.toNat then v else s.mem.read b) ∧
      t = { s with mem := t.mem, response := none }

/-- LDOAM overwrites the whole object table in one step, record 0 first; every byte outside 0xFE00..0xFE9F reads as
before and nothing else changes. A burst of another length is refused (R138, R116). That this ground is named in
every state, also where R130 or R217 gives another, is the model's choice (log 13). -/
def Obligations.LdoamOverwritesTable : Prop :=
  ∀ (s : State) (d : List Byte), s.mem.wf →
    (∀ h : d.length = 160, s.Idle → ∃ t, exec (.ldoam d) s = .next t ∧
      (∀ (k : Nat) (hk : k < 160), t.mem.read (0xFE00 + k) = d[k]) ∧
      (∀ b, (b < 0xFE00 ∨ 0xFE9F < b) → t.mem.read b = s.mem.read b) ∧
      t = { s with mem := t.mem, response := none }) ∧
    (d.length ≠ 160 → exec (.ldoam d) s = .refused .badBurst)

/-- LDOAM leaves the state that 160 WRMEM operations, one per byte of the table, leave (R138). -/
def Obligations.LdoamIsManyWrmem : Prop :=
  ∀ (s : State) (d : List Byte), d.length = 160 → s.Idle →
    exec (.ldoam d) s =
      d.zipIdx.foldl (fun o p =>
        match o with
        | .next u => exec (.wrmem (BitVec.ofNat 16 (0xFE00 + p.2)) p.1) u
        | .fault f => .fault f
        | .refused r => .refused r) (.next { s with response := none })

/-- RENDER latches the four palette bytes, shade 0 first, and starts the sequencer; nothing else changes (R140). -/
def Obligations.RenderStartsFrame : Prop :=
  ∀ (s : State) (c0 c1 c2 c3 : Byte), s.Idle →
    ∃ t, exec (.render c0 c1 c2 c3) s = .next t ∧ t.phase = .start ∧
      t.opal.at 0 = c0 ∧ t.opal.at 1 = c1 ∧ t.opal.at 2 = c2 ∧ t.opal.at 3 = c3 ∧
      t = { s with opal := t.opal, phase := t.phase, response := none }

/-- SETIRQ installs or removes the sink and touches nothing else: no flag is armed or disarmed and no past firing is
replayed (R141). -/
def Obligations.SetirqInstallsSink : Prop :=
  ∀ (s : State) (e : Bool), s.Idle → exec (.setirq e) s = .next { s with sink := e, response := none }

/-! ### Memory -/

/-- Memory behaves as memory: a read after a write gives the value written at its address and the old value everywhere
else (R86). The canonical form, which is the model's (log 2), makes equal contents equal data and is kept by every
operation that writes memory. -/
def Obligations.MemoryLaws : Prop :=
  (∀ (m : Memory) (a b : Nat) (v : Byte), m.wf → (m.write a v).read b = if b = a then v else m.read b) ∧
  (∀ m m' : Memory, m.wf → m'.wf → (∀ a, m.read a = m'.read a) → m = m') ∧
  (∀ (m : Memory) (a : Addr) (v : Byte), m.wf → (m.write a.toNat v).wf) ∧
  (∀ (m : Memory) (d : List Byte), m.wf → d.length = 160 → (m.writeBytes 0xFE00 d).wf) ∧
  (∀ cs : List Host.Cell, (Memory.ofCells cs []).wf)

/-! ### Tile decoder -/

/-- `decode_row` in both addressing modes: the low plane byte at `base + 16·eff + 2·row` and the high plane byte
after it, where `eff` is the index, or `(0 − index) mod 256` in signed addressing (R151, R152, R155; the reading of
signed addressing is D5). -/
def Obligations.DecodeRowAddresses : Prop :=
  ∀ (m : Memory) (base : Nat) (tile : Byte) (row : TileCoord),
    decodeRow m base .unsigned tile row =
      (m.read (base + 16 * tile.toNat + 2 * row.toNat), m.read (base + 16 * tile.toNat + 2 * row.toNat + 1)) ∧
    decodeRow m base .signed tile row =
      (m.read (base + 16 * ((256 - tile.toNat) % 256) + 2 * row.toNat),
       m.read (base + 16 * ((256 - tile.toNat) % 256) + 2 * row.toNat + 1))

/-- `palette_index` is `2·hi + lo` of bit `7 − column` of the two planes; an all-zero row gives 0 at every column
(R153). -/
def Obligations.PaletteIndexOfPlanes : Prop :=
  ∀ (b0 b1 : Byte) (c : TileCoord),
    (paletteIndex (b0, b1) c).toNat =
      2 * (b1.getLsbD (7 - c.toNat)).toNat + (b0.getLsbD (7 - c.toNat)).toNat ∧
    paletteIndex (0, 0) c = 0

/-- `color(idx, pal) = (pal >> 2·idx) & 3` (R154). -/
def Obligations.ColorOfPalette : Prop :=
  ∀ (i : TwoBit) (p : Byte), (color i p).toNat = (p.toNat >>> (2 * i.toNat)) &&& 3

/-- Every address the block forms is inside the 64 KiB buffer, for every legal configuration; with the default one
tile rows end at 0x97FF (R85, R155; the default base is D5). -/
def Obligations.AddressesStayInBuffer : Prop :=
  (∀ (p : Config.Params) (m : Addressing) (t : Byte) (r : TileCoord),
    rowAddress (tileBase p m) m t r + 1 < 65536) ∧
  (∀ (m : Addressing) (t : Byte) (r : TileCoord),
    rowAddress (tileBase Config.Params.default m) m t r + 1 ≤ 0x97FF) ∧
  (∀ (b : Bool) (px py : Nat), px < 256 → py < 256 →
    0x9800 ≤ mapBase b + 32 * (py / 8) + px / 8 ∧ mapBase b + 32 * (py / 8) + px / 8 ≤ 0x9FFF) ∧
  (∀ (i : Fin 40) (k : Nat), k < 4 → 0xFE00 ≤ objAddress i k ∧ objAddress i k ≤ 0xFE9F)

/-! ### Sprite scanner -/

/-- The scan selects, in ascending table index, the first ten records whose sprite vertically covers the line, even
records only with 16-row sprites; nothing but the y byte is looked at (R160, R161, R163, R166). -/
def Obligations.ScanSelectsFirstTen : Prop :=
  ∀ (m : Memory) (line : Nat) (size16 : Bool),
    let hit : Fin 40 → Prop := fun i =>
      (size16 = true → i.val % 2 = 0) ∧
      ((m.read (0xFE00 + 4 * i.val)).toNat : Int) - 16 ≤ line ∧
      (line : Int) < ((m.read (0xFE00 + 4 * i.val)).toNat : Int) - 16 + (if size16 then 16 else 8)
    let before : Fin 40 → Nat := fun i => ((scan m line size16).filter (· < i)).length
    (scan m line size16).length ≤ 10 ∧ (scan m line size16).Pairwise (· < ·) ∧
    (∀ i ∈ scan m line size16, hit i) ∧
    (∀ i, hit i → i ∉ scan m line size16 → before i = 10)

/-- The lines a stored y covers, nothing wrapping: below, at and above the ends of the screen (R162; that nothing
wraps is D8). -/
def Obligations.VerticalRange : Prop :=
  ∀ (line : Nat) (y : Byte), line < 144 →
    (covers line false y = true ↔ y.toNat ≤ line + 16 ∧ line + 16 < y.toNat + 8) ∧
    (covers line true y = true ↔ y.toNat ≤ line + 16 ∧ line + 16 < y.toNat + 16) ∧
    (y.toNat ≤ 8 → covers line false y = false) ∧ (y.toNat = 0 → covers line true y = false) ∧
    (160 ≤ y.toNat → covers line false y = false ∧ covers line true y = false)

/-- The tile and row of a sprite selected for a line: in the lower half of a 16-row sprite the next tile modulo 256
and the row less 8, else the sprite's tile and the row hit (R164, R165; D9). -/
def Obligations.SpriteRowOfSelected : Prop :=
  ∀ (m : Memory) (i : Fin 40) (line : Nat) (size16 : Bool), i ∈ scan m line size16 →
    let y := (m.read (0xFE00 + 4 * i.val)).toNat
    let tile := m.read (0xFE00 + 4 * i.val + 2)
    (size16 = true → 8 ≤ line + 16 - y →
      spriteRow m i line size16 = (BitVec.ofNat 8 (tile.toNat + 1), BitVec.ofNat 3 (line + 16 - y - 8)) ∧
      line + 16 - y - 8 < 8) ∧
    ((size16 = false ∨ line + 16 - y < 8) →
      spriteRow m i line size16 = (tile, BitVec.ofNat 3 (line + 16 - y)) ∧ line + 16 - y < 8)

/-! ### Compositor -/

/-- Window, else background, else index 0; the window's pixel (0, 0) is at its top-left corner and the background is
a 256×256 torus (R171, R172, R173, R174; the window's origin is D7, the map select's polarity D4). -/
def Obligations.WindowElseBackground : Prop :=
  ∀ (s : State) (line col : Nat),
    (winEn s.regs.lcdc = true ∧ s.regs.wy.toNat ≤ line ∧ s.regs.wx.toNat ≤ col + 7 →
      bgwinIndex s line col = layerIndex s (if winMap s.regs.lcdc then 0x9C00 else 0x9800)
        (col + 7 - s.regs.wx.toNat) (line - s.regs.wy.toNat)) ∧
    (¬ (winEn s.regs.lcdc = true ∧ s.regs.wy.toNat ≤ line ∧ s.regs.wx.toNat ≤ col + 7) →
      bgwinIndex s line col =
        if bgEn s.regs.lcdc then layerIndex s (if bgMap s.regs.lcdc then 0x9C00 else 0x9800)
          ((col + s.regs.scx.toNat) % 256) ((line + s.regs.scy.toNat) % 256)
        else 0)

/-- The palette index of a layer's pixel: the map entry at `map + 32·(py >> 3) + (px >> 3)`, its tile in the
addressing mode TILE_DATA selects, row `py & 7`, column `px & 7` (R174, R76, R34; D4, D5, D6). -/
def Obligations.LayerLookup : Prop :=
  ∀ (s : State) (map px py : Nat),
    let tile := s.mem.read (map + 32 * (py / 8) + px / 8)
    let T := if tileData s.regs.lcdc then 0x8000 + 16 * tile.toNat
      else s.cfg.tileBaseSigned.val + 16 * ((256 - tile.toNat) % 256)
    (layerIndex s map px py).toNat =
      2 * ((s.mem.read (T + 2 * (py % 8) + 1)).getLsbD (7 - px % 8)).toNat +
        ((s.mem.read (T + 2 * (py % 8))).getLsbD (7 - px % 8)).toNat

/-- A sprite covers the columns x − 8 .. x − 1 and no other; there its index is that of its tile row, row and column
mirrored by its flips, the tile always in unsigned addressing (R176). -/
def Obligations.SpriteColumns : Prop :=
  ∀ (s : State) (i : Fin 40) (line col : Nat),
    let x := (s.mem.read (0xFE00 + 4 * i.val + 1)).toNat
    let f := s.mem.read (0xFE00 + 4 * i.val + 3)
    let tr := spriteRow s.mem i line (objSize s.regs.lcdc)
    let r := if f.getLsbD 6 then 7 - tr.2.toNat else tr.2.toNat
    let c := if f.getLsbD 5 then 7 - (col + 8 - x) else col + 8 - x
    ((col + 8 < x ∨ x + 7 < col + 8) → spriteIndex s i line col = none) ∧
    (x ≤ col + 8 ∧ col + 8 ≤ x + 7 → ∃ q, spriteIndex s i line col = some q ∧
      q.toNat = 2 * ((s.mem.read (0x8000 + 16 * tr.1.toNat + 2 * r + 1)).getLsbD (7 - c)).toNat +
        ((s.mem.read (0x8000 + 16 * tr.1.toNat + 2 * r)).getLsbD (7 - c)).toNat)

/-- The overwrite and priority test: an index of 0 never overwrites; any other does unless PRIO is set and the
background/window index is not 0 (R177, R178; D10). -/
def Obligations.PriorityRule : Prop :=
  ∀ (s : State) (line col : Nat) (bgidx q : TwoBit) (i : Fin 40) (p : Pixel),
    spriteIndex s i line col = some q →
    (q = 0 → drawSprite s line col bgidx i p = p) ∧
    (q ≠ 0 → (s.mem.read (0xFE00 + 4 * i.val + 3)).getLsbD 7 = true → bgidx ≠ 0 →
      drawSprite s line col bgidx i p = p) ∧
    (q ≠ 0 → ((s.mem.read (0xFE00 + 4 * i.val + 3)).getLsbD 7 = false ∨ bgidx = 0) →
      drawSprite s line col bgidx i p =
        { idx := q, preg := if (s.mem.read (0xFE00 + 4 * i.val + 3)).getLsbD 4 then .obp1 else .obp0 })

/-- Among the selected sprites the first in selection order that draws at the pixel wins, and if none draws the
background/window pixel stands, through BGP (R175, R180). -/
def Obligations.FirstDrawingSpriteWins : Prop :=
  ∀ (s : State) (line col : Nat), objEn s.regs.lcdc = true →
    let bgidx := bgwinIndex s line col
    let silent : Fin 40 → Prop := fun j => ∀ q, spriteIndex s j line col = some q →
      q = 0 ∨ (flagPrio (objFlags s.mem j) = true ∧ bgidx ≠ 0)
    (∀ (before after : List (Fin 40)) (i : Fin 40) (q : TwoBit), s.sb = before ++ i :: after →
      (∀ j ∈ before, silent j) → ¬ silent i → spriteIndex s i line col = some q →
      resolve s line col = { idx := q, preg := objPalette (flagPal (objFlags s.mem i)) }) ∧
    ((∀ j ∈ s.sb, silent j) → resolve s line col = { idx := bgidx, preg := .bgp })

/-- The output byte is the output palette's entry for the shade of the final index; with objects off the sprite
buffer is not looked at, and with window, background and objects off the pixel is shade BGP[1:0] (R173, R175,
R179; D26). -/
def Obligations.OutputByte : Prop :=
  ∀ (s : State) (line col : Nat),
    pixel s line col = s.opal.at (color (resolve s line col).idx
      (match (resolve s line col).preg with
        | .bgp => s.regs.bgp | .obp0 => s.regs.obp0 | .obp1 => s.regs.obp1)) ∧
    (objEn s.regs.lcdc = false → ∀ sb', pixel { s with sb := sb' } line col = pixel s line col ∧
      pixel s line col = s.opal.at (color (bgwinIndex s line col) s.regs.bgp)) ∧
    (objEn s.regs.lcdc = false → winEn s.regs.lcdc = false → bgEn s.regs.lcdc = false →
      pixel s line col = s.opal.at (s.regs.bgp.extractLsb' 0 2))

/-- The block's read set: a pixel of the screen, and the scan of a line, are the same in two states that agree on the
160 bytes of the object table, the two selected tile maps, the tiles at 0x8000..0x8FFF and, in signed addressing, the
4096 bytes from TILE_BASE_SIGNED, whatever the rest of memory holds (R82). -/
def Obligations.PixelReadSet : Prop :=
  ∀ (s : State) (m' : Memory) (line col : Nat), line < 144 → col < 160 →
    (∀ a, (0xFE00 ≤ a ∧ a ≤ 0xFE9F) ∨
      (mapBase (bgMap s.regs.lcdc) ≤ a ∧ a < mapBase (bgMap s.regs.lcdc) + 1024) ∨
      (mapBase (winMap s.regs.lcdc) ≤ a ∧ a < mapBase (winMap s.regs.lcdc) + 1024) ∨
      (0x8000 ≤ a ∧ a ≤ 0x8FFF) ∨
      (tileData s.regs.lcdc = false ∧ s.cfg.tileBaseSigned.val ≤ a ∧
        a ≤ s.cfg.tileBaseSigned.val + 0xFFF) → s.mem.read a = m'.read a) →
    pixel { s with mem := m' } line col = pixel s line col ∧
    scan m' line (objSize s.regs.lcdc) = scan s.mem line (objSize s.regs.lcdc)

/-- A register the configured frame does not read cannot reach the output: WX and WY with the window off, SCX and SCY
with the background off, OBP0 and OBP1 with objects off (R245). -/
def Obligations.UnusedRegistersDoNotMatter : Prop :=
  ∀ (s : State) (r : Reg) (v : Byte) (line col : Nat),
    (winEn s.regs.lcdc = false ∧ (r = .wx ∨ r = .wy)) ∨ (bgEn s.regs.lcdc = false ∧ (r = .scx ∨ r = .scy)) ∨
      (objEn s.regs.lcdc = false ∧ (r = .obp0 ∨ r = .obp1)) ∨ r = .lyc ∨ r = .ly ∨ r = .stat →
    pixel (s.setReg r v) line col = pixel s line col

/-! ### Sequencer steps -/

/-- SQ_BLANK: every byte of the frame buffer becomes BLANK and the frame is over; nothing else changes, so no
register, no tracker state and no memory is touched (R184, R193; D24; BLANK is any byte, D11, log 3). -/
def Obligations.SqBlankFillsFrame : Prop :=
  ∀ s : State, ∃ t, exec .sqBlank s = .next t ∧ t.phase = .wait ∧
    (∀ (l c : Nat) (hl : l < 144) (hc : c < 160), t.fb[l][c] = s.cfg.blank) ∧
    t = { s with fb := t.fb, phase := t.phase }

/-- SQ_BEGIN: LY becomes 0, OAM_SEARCH is entered, and unless the notification is delivered the scan of line 0 follows
and the phase is OAM; a delivered notification stops the step at the window (R195, R190, R216). That the phase
inside the window is still START, beside the new MODE, is the model's reading (log 7). -/
def Obligations.SqBeginStartsLineZero : Prop :=
  ∀ s : State, s.window = none → ∃ t, exec .sqBegin s = .next t ∧ Interrupted.Queried .sqBegin s t ∧
    (Interrupted.delivered .sqBegin s = true → t = { s with
      regs := t.regs, armed := t.armed, irqTrace := t.irqTrace, window := some .sqBegin }) ∧
    (Interrupted.delivered .sqBegin s = false →
      t.phase = .oam ∧ t.sb = scan s.mem 0 (objSize s.regs.lcdc) ∧ t = { s with
        regs := t.regs, armed := t.armed, irqTrace := t.irqTrace, phase := t.phase, sb := t.sb })

/-- SQ_XFER: PIXEL_TRANSFER is entered, then the 160 pixels of line LY are written and no other byte of the frame
buffer (R196, R183, R190, R216). A visible line is a premise (PositionOk of InvariantKept).
That the phase inside the window is still OAM, beside the new MODE, is the model's reading (log 7). -/
def Obligations.SqXferComposesLine : Prop :=
  ∀ s : State, s.window = none → ∀ hly : s.regs.ly.toNat < 144,
    ∃ t, exec .sqXfer s = .next t ∧ Interrupted.Queried .sqXfer s t ∧
    (Interrupted.delivered .sqXfer s = true → t = { s with
      regs := t.regs, armed := t.armed, irqTrace := t.irqTrace, window := some .sqXfer }) ∧
    (Interrupted.delivered .sqXfer s = false →
      t.phase = .xfer ∧
      (∀ (c : Nat) (hc : c < 160), t.fb[s.regs.ly.toNat][c] = pixel s s.regs.ly.toNat c) ∧
      (∀ (l : Nat) (hl : l < 144), l ≠ s.regs.ly.toNat → t.fb[l] = s.fb[l]) ∧ t = { s with
        regs := t.regs, armed := t.armed, irqTrace := t.irqTrace, phase := t.phase, fb := t.fb })

/-- SQ_HBL enters HORIZONTAL_BLANK at the line LY holds; SQ_VBL sets LY to 144 and enters VERTICAL_BLANK. No other
work is attached to either (R197, R199, R190, R216). That the phase inside the window is still XFER or HBL, beside
the new MODE, is the model's reading (log 7). -/
def Obligations.SqHblAndSqVblEnter : Prop :=
  ∀ s : State, s.window = none →
    (∃ t, exec .sqHbl s = .next t ∧ Interrupted.Queried .sqHbl s t ∧
      (Interrupted.delivered .sqHbl s = true → t = { s with
        regs := t.regs, armed := t.armed, irqTrace := t.irqTrace, window := some .sqHbl }) ∧
      (Interrupted.delivered .sqHbl s = false → t.phase = .hbl ∧ t = { s with
        regs := t.regs, armed := t.armed, irqTrace := t.irqTrace, phase := t.phase })) ∧
    (∃ t, exec .sqVbl s = .next t ∧ Interrupted.Queried .sqVbl s t ∧
      (Interrupted.delivered .sqVbl s = true → t = { s with
        regs := t.regs, armed := t.armed, irqTrace := t.irqTrace, window := some .sqVbl }) ∧
      (Interrupted.delivered .sqVbl s = false → t.phase = .vbl ∧ t = { s with
        regs := t.regs, armed := t.armed, irqTrace := t.irqTrace, phase := t.phase }))

/-- SQ_LINE: LY advances by one before OAM_SEARCH is entered, then the new line is scanned (R198, R190,
R216; the order is D15). That the phase inside the window is still HBL, beside the new MODE, is the model's
reading (log 7). -/
def Obligations.SqLineAdvances : Prop :=
  ∀ s : State, s.window = none → ∃ t, exec .sqLine s = .next t ∧ Interrupted.Queried .sqLine s t ∧
    (Interrupted.delivered .sqLine s = true → t = { s with
      regs := t.regs, armed := t.armed, irqTrace := t.irqTrace, window := some .sqLine }) ∧
    (Interrupted.delivered .sqLine s = false →
      t.phase = .oam ∧ t.sb = scan s.mem (s.regs.ly + 1).toNat (objSize s.regs.lcdc) ∧ t = { s with
        regs := t.regs, armed := t.armed, irqTrace := t.irqTrace, phase := t.phase, sb := t.sb })

/-- SQ_VLINE: LY advances by one and VERTICAL_BLANK is polled: MATCH is recomputed and the tracker queried, MODE and
the phase stay and nothing is re-armed (R200, R191, R216; that the poll happens is D14). -/
def Obligations.SqVlinePolls : Prop :=
  ∀ s : State, s.window = none → ∃ t, exec .sqVline s = .next t ∧ Interrupted.Queried .sqVline s t ∧
    t = { s with regs := t.regs, armed := t.armed, irqTrace := t.irqTrace
                 window := if Interrupted.delivered .sqVline s then some .sqVline else none }

/-- SQ_END: the frame is over and nothing but the phase changes, so LY stays 153 and MODE stays 1 (R201; D13). -/
def Obligations.SqEndRests : Prop :=
  ∀ s : State, exec .sqEnd s = .next { s with phase := .wait }

/-- When the host closes the window the stopped step does the rest of its work, and no other, on the state as it then
is (R216, R218). -/
def Obligations.ClosingResumesStep : Prop :=
  ∀ (s : State) (k : Interrupted) (rest : List HostInput), s.window = some k → s.inbox = .closeWindow :: rest →
    ∃ t, step s = .next t ∧ t.window = none ∧ t.inbox = rest ∧
      t = { s with window := none, inbox := rest, phase := t.phase, sb := t.sb, fb := t.fb } ∧
      (match k with
        | .sqBegin => t.phase = .oam ∧ t.sb = scan s.mem 0 (objSize s.regs.lcdc) ∧ t.fb = s.fb
        | .sqXfer => t.phase = .xfer ∧ t.sb = s.sb ∧
            t.fb = s.fb.setIfInBounds s.regs.ly.toNat (lineOf s s.regs.ly.toNat)
        | .sqHbl => t.phase = .hbl ∧ t.sb = s.sb ∧ t.fb = s.fb
        | .sqLine => t.phase = .oam ∧ t.sb = scan s.mem s.regs.ly.toNat (objSize s.regs.lcdc) ∧ t.fb = s.fb
        | .sqVbl => t.phase = .vbl ∧ t.sb = s.sb ∧ t.fb = s.fb
        | .sqVline => t.phase = s.phase ∧ t.sb = s.sb ∧ t.fb = s.fb)

/-- The sequencer's state after a notification is the same with and without a sink: a step stopped by a delivered
notification and resumed after the host has read (which changes only the response and the inbox) ends in the state
the same step reaches with no sink, but for the sink itself and its mark in the trace (R214, R217). -/
def Obligations.SinkDoesNotChangeTheFrame : Prop :=
  ∀ (s : State) (k : Interrupted) (r : Option Response) (q : List HostInput),
    s.window = none → k.delivered s = true →
    ∃ u v, exec k.instr s = .next u ∧ u.window = some k ∧
      exec k.instr { s with sink := false } = .next v ∧
      resumeStep { u with response := r, inbox := q } =
        .next { v with sink := true, irqTrace := u.irqTrace, response := r, inbox := q } ∧
      v.irqTrace = s.irqTrace ++ [{ ly := k.line s, mode := k.mode, sink := false }] ∧
      u.irqTrace = s.irqTrace ++ [{ ly := k.line s, mode := k.mode, sink := true }]

/-! ### The tracker -/

/-- `cond(m)` bit by bit: the mode's own enable (PIXEL_TRANSFER has none), or IE_LYC and MATCH; an armed mode fires
once, not twice, when it holds, and one that is not armed does not fire (R212, R213; D16). -/
def Obligations.NotificationCondition : Prop :=
  (∀ st : Byte,
    cond st .hbl = (st.getLsbD 3 || (st.getLsbD 6 && st.getLsbD 2)) ∧
    cond st .vbl = (st.getLsbD 4 || (st.getLsbD 6 && st.getLsbD 2)) ∧
    cond st .oam = (st.getLsbD 5 || (st.getLsbD 6 && st.getLsbD 2)) ∧
    cond st .xfer = (st.getLsbD 6 && st.getLsbD 2)) ∧
  ∀ (s : State) (k : Interrupted) (m : Mode),
    (s.armed.get m = true → cond s.regs.stat m = true →
      (query k m s).irqTrace = s.irqTrace ++ [{ ly := s.regs.ly, mode := m, sink := s.sink }] ∧
      (query k m s).armed.get m = false ∧ (∀ m', m' ≠ m → (query k m s).armed.get m' = s.armed.get m')) ∧
    (s.armed.get m = false ∨ cond s.regs.stat m = false → query k m s = s)

/-- Edge-triggered delivery: an entry to a mode followed by any number of polls of it, LY and STAT holding anything at
each poll, gives at most one firing (R212, R215). -/
def Obligations.AtMostOneFiringPerEntry : Prop :=
  ∀ (s : State) (k : Interrupted) (m : Mode) (between : List (Byte × Byte)),
    let polled := between.foldl (fun u p => pollMode k m ((u.setReg .ly p.1).setReg .stat p.2)) (enterMode k m s)
    ∃ added, polled.irqTrace = s.irqTrace ++ added ∧ added.length ≤ 1 ∧
      (condAt s.regs.stat s.regs.lyc m s.regs.ly = true →
        added = [{ ly := s.regs.ly, mode := m, sink := s.sink }])

/-- At one step at most one notification is produced, and the trace only grows (R220, R47). -/
def Obligations.TraceGrowsByAtMostOne : Prop :=
  ∀ s t : State, step s = .next t → ∃ added, t.irqTrace = s.irqTrace ++ added ∧ added.length ≤ 1

/-! ### The whole machine -/

/-- The engine writes LY, STAT[2:0], its own state and the output buffer, which is the host's but the block's to
fill (R48), and nothing else: no sequencer step changes another register, STAT[7:3], a byte of memory, the output
palette, the sink or anything else of the host's but the output buffer (R31, R82, R86, R225). -/
def Obligations.EngineWritesOnlyItsOwn : Prop :=
  ∀ s t : State, s.hostTurn = false → step s = .next t →
    (∀ r, r ≠ .ly → r ≠ .stat → t.regs.get r = s.regs.get r) ∧
    hostBits t.regs.stat = hostBits s.regs.stat ∧
    t = { s with regs := t.regs, phase := t.phase, armed := t.armed, sb := t.sb, fb := t.fb
                 irqTrace := t.irqTrace, window := t.window }

/-- No host operation changes the tracker's flags, the sprite buffer, the frame buffer, the trace, the window or the
parameters; the phase only by RENDER, LY only by WRREG LY, memory only by WRMEM and LDOAM (R225, R31, R83). -/
def Obligations.HostWritesOnlyItsOwn : Prop :=
  ∀ (i : Instr) (s t : State), i.isHost = true → exec i s = .next t →
    t = { s with regs := t.regs, mem := t.mem, phase := t.phase, opal := t.opal, sink := t.sink
                 attached := t.attached, response := t.response, draws := t.draws } ∧
    ((∀ c0 c1 c2 c3, i ≠ .render c0 c1 c2 c3) → t.phase = s.phase ∧ t.opal = s.opal) ∧
    ((∀ v, i ≠ .wrreg .ly v) → t.regs.ly = s.regs.ly) ∧
    ((∀ a v, i ≠ .wrmem a v) → (∀ d, i ≠ .ldoam d) → t.mem = s.mem)

/-- No sequencer step can raise an exception, refuse or stall: while it is the sequencer's turn a step answers a next
state, and that state has another phase, another LY, or the notification window just opened (R203). -/
def Obligations.SequencerNeverStops : Prop :=
  ∀ s : State, s.hostTurn = false →
    Safe s ∧ ∀ t, step s = .next t → (t.phase, t.regs.ly, t.window) ≠ (s.phase, s.regs.ly, s.window)

/-- One enabled frame is exactly 443 steps after RENDER, here with no sink installed: the frame is in progress before
each of them and over after the last, with LY = 153 and MODE = VERTICAL_BLANK (R202, R201; D13). -/
def Obligations.FrameTakes443Steps : Prop :=
  ∀ s : State, s.window = none → s.phase = .start → lcdEn s.regs.lcdc = true → s.sink = false →
    (∀ n < 443, ∃ u, core.run n s = .next u ∧ State.hostTurn u = false) ∧
    ∃ t : State, core.run 443 s = .next t ∧ t.phase = .wait ∧ t.window = none ∧ t.regs.ly = 153 ∧
      modeField t.regs.stat = 1 ∧ matchFlag t.regs.stat = (s.regs.lyc == 153) ∧
      hostBits t.regs.stat = hostBits s.regs.stat

/-- The frame those 443 steps draw, with no sink installed: every line of the frame buffer is composed with the
sprites the scan selects for it, from the memory and registers as they are when the frame starts; memory and the
registers but LY and STAT are as before (R53, R183, R192, R202). -/
def Obligations.FrameDrawsEveryLine : Prop :=
  ∀ s t : State, s.window = none → s.phase = .start → lcdEn s.regs.lcdc = true → s.sink = false →
    core.run 443 s = .next t →
    (∀ (l c : Nat) (hl : l < 144) (hc : c < 160),
      t.fb[l][c] = pixel { s with sb := scan s.mem l (objSize s.regs.lcdc) } l c) ∧
    (∀ r, r ≠ .ly → r ≠ .stat → t.regs.get r = s.regs.get r) ∧
    t = { s with regs := t.regs, phase := t.phase, armed := t.armed, sb := t.sb, fb := t.fb
                 irqTrace := t.irqTrace }

/-- The firings of an enabled frame with no sink installed, in step order: on each visible line the OAM_SEARCH,
PIXEL_TRANSFER and HORIZONTAL_BLANK entries whose condition holds, then in VERTICAL_BLANK the first line from 144
on where its condition holds (R213, R215, R220; D14, D16). -/
def Obligations.FrameFiresAsListed : Prop :=
  ∀ s t : State, s.window = none → s.phase = .start → lcdEn s.regs.lcdc = true → s.sink = false →
    core.run 443 s = .next t →
    t.irqTrace = s.irqTrace ++ frameFirings s.regs.stat s.regs.lyc false

/-- The length of the list frameFirings (Safety), for every setting of the enables and LYC and either mark of the sink:
144 for IE_OAM, 144 for IE_HBL, one in VERTICAL_BLANK if IE_VBL or IE_LYC with LYC in 144..153, and with IE_LYC and
LYC on a visible line one more for each of its three entries that had none (the counts of R215; D14, D16). That a
frame's trace grows by this list is FrameFiresAsListed, which speaks of frames with no sink; this statement runs no
step. -/
def Obligations.FiringsPerFrame : Prop :=
  ∀ (st lyc : Byte) (sink : Bool),
    (frameFirings st lyc sink).length =
      (if ieOam st then 144 else 0) + (if ieHbl st then 144 else 0) +
      (if ieLyc st ∧ lyc.toNat ≤ 143 then 1 + (if ieOam st then 0 else 1) + (if ieHbl st then 0 else 1) else 0) +
      (if ieVbl st ∨ (ieLyc st ∧ 144 ≤ lyc.toNat ∧ lyc.toNat ≤ 153) then 1 else 0)

/-! ### Invariants -/

/-- From every state that meets the invariant every step gives a state that meets it: memory stays canonical, the
sprite buffer holds at most ten indices in ascending order, LY fits the sequencer position, a frame is in progress
only on an attached instance, STAT shows the mode entered and the comparison of LY with LYC, and at OAM and XFER the
sprite buffer is the scan of LY (R43, R44, R45, R53, R86). Inside a notification window the phase the invariant
names is the one the stopped step started from, beside the MODE it has entered: the model's reading (log 7). -/
def Obligations.InvariantKept : Prop :=
  ∀ s t : State, Inv s → step s = .next t → Inv t

/-- Every instance just created meets the invariant, whatever the unspecified state holds, as long as the memory is
canonical and the sprite buffer has its own shape; so does State.reset (R50, R240). The values of State.reset are the
model's (log 1). -/
def Obligations.InvariantAtReset : Prop :=
  (∀ (p : Config.Params) (n : Nat) (u : PowerUp), u.mem.wf → SpritesOk u.sb → Inv (State.created p n u)) ∧
  Inv State.reset

/-- The lines drawn so far hold their pixels, at every step of a frame and inside every window, and when the frame
ends all 144 do (R53, R252). The invariant it assumes names the phase inside a window as log 7 does. -/
def Obligations.FrameProgressKept : Prop :=
  (∀ s t : State, Inv s → FrameProgress s → step s = .next t → FrameProgress t) ∧
  (∀ s : State, Inv s → FrameProgress s → s.window = none → s.phase = .vbl → s.regs.ly = 153 →
    ∃ t, step s = .next t ∧ t.phase = .wait ∧ ∀ (l : Nat) (h : l < 144), t.fb[l] = frameLine s l)

/-! ### Reset and configuration -/

/-- After reset: WAIT, no callback installed, not attached, an empty trace; everything the spec calls unspecified
holds an arbitrary value, and State.reset is one such instance (R50, R240). -/
def Obligations.ResetValues : Prop :=
  (∀ (p : Config.Params) (n : Nat) (u : PowerUp),
    let s := State.created p n u
    s.phase = .wait ∧ s.sink = false ∧ s.attached = false ∧ s.irqTrace = [] ∧ s.regs = u.regs ∧
      s.mem = u.mem ∧ s.armed = u.armed ∧ s.opal = u.opal ∧ s.sb = u.sb ∧ s.fb = u.fb) ∧
  ∃ p n u, State.reset = State.created p n u

/-- An instance with TILE_BASE_SIGNED above 0xF000 is refused; every other is created with the base and the BLANK it
was given (R85, R73, R184; log 15). -/
def Obligations.ConfigurationBound : Prop :=
  ∀ (blank : Byte) (base n : Nat) (u : PowerUp),
    (0xF000 < base → createInstance blank base n u = .refused .badConfiguration) ∧
    (base ≤ 0xF000 → ∃ p, createInstance blank base n u = .next (State.created p n u) ∧
      p.tileBaseSigned.val = base ∧ p.blank = blank)
end

