-- ==== Sys2Proof/Laws/Codec.lean ====
section
/-! SUPPORT. Command words: a word is its opcode byte over its payload; when a row accepts it; and what each field reads
from an encoded word (R102 to R105). -/

namespace Sys2Proof

theorem hostWord_getLsbD (op : HostOp) (p : BitVec 32) (i : Nat) :
    (hostWord op p).getLsbD i = if i < 32 then p.getLsbD i else op.opcode.getLsbD (i - 32) := by
  exact (BitVec.getLsbD_append (x := op.opcode) (y := p)).trans (by by_cases h : i < 32 <;> simp [h])

theorem fieldOp_hostWord (op : HostOp) (p : BitVec 32) : fieldOp (hostWord op p) = op.opcode := by
  unfold fieldOp
  ext i hi
  simp [hostWord_getLsbD, BitVec.getLsbD_eq_getElem, hi]

theorem extract_hostWord (op : HostOp) (p : BitVec 32) (k n : Nat) (h : k + n ≤ 32) :
    (hostWord op p).extractLsb' k n = p.extractLsb' k n := by
  ext i hi
  simp [hostWord_getLsbD]
  intro h; omega

/-- A command word is its opcode byte over its payload. -/
theorem eq_hostWord {op : HostOp} {w : CommandWord} (h : fieldOp w = op.opcode) :
    w = hostWord op (w.extractLsb' 0 32) := by
  have e : (w.extractLsb' 32 8 ++ w.extractLsb' 0 32 : BitVec (8 + 32)) = w.extractLsb' 0 40 :=
    BitVec.extractLsb'_append_extractLsb'_eq_extractLsb' rfl
  have e2 : w.extractLsb' 0 40 = w := by ext i hi; simp
  unfold hostWord
  rw [← h]
  exact (e2.symm.trans e.symm)

theorem hostWord_inj {op : HostOp} {p q : BitVec 32} (h : hostWord op p = hostWord op q) : p = q := by
  have := congrArg (fun w => w.extractLsb' 0 32) h
  simp only [extract_hostWord _ _ 0 32 (by omega)] at this
  have e : ∀ x : BitVec 32, x.extractLsb' 0 32 = x := by intro x; ext i hi; simp
  rwa [e, e] at this

/-- The must-be-zero payload bits. -/
def HostOp.payloadMask (op : HostOp) : BitVec 32 := op.mask.extractLsb' 0 32

theorem accepts_hostWord (op : HostOp) (p : BitVec 32) :
    op.accepts (hostWord op p) = (p &&& op.payloadMask == 0) := by
  have e : hostWord op p &&& op.mask = hostWord op (p &&& op.payloadMask) := by
    have em : op.mask = (0xFF#8 ++ op.payloadMask : BitVec (8 + 32)) := by cases op <;> decide
    have e3 : op.opcode &&& 0xFF#8 = op.opcode := by cases op <;> decide
    rw [em]
    unfold hostWord
    refine (BitVec.and_append (x₁ := op.opcode) (y₁ := p) (x₂ := 0xFF#8) (y₂ := op.payloadMask)).trans ?_
    rw [e3]
  unfold HostOp.accepts
  rw [e]
  have e4 : op.matchWord = hostWord op 0 := rfl
  rw [e4, Bool.eq_iff_iff, beq_iff_eq, beq_iff_eq]
  exact ⟨hostWord_inj, fun h => by rw [h]⟩

theorem opcode_inj {a b : HostOp} (h : a.opcode = b.opcode) : a = b := by
  revert h; cases a <;> cases b <;> decide

theorem ofOpcode_opcode (op : HostOp) : HostOp.ofOpcode op.opcode = some op := by cases op <;> decide

theorem opcode_of_ofOpcode : ∀ {b op}, HostOp.ofOpcode b = some op → op.opcode = b := by
  intro b op; cases op <;> (revert b; decide +kernel)

theorem ofNumber_number (r : Reg) : Reg.ofNumber r.number = some r := by cases r <;> decide

theorem number_of_ofNumber : ∀ {b r}, Reg.ofNumber b = some r → r.number = b := by
  intro b r; cases r <;> (revert b; decide +kernel)

theorem decodeHost_hostWord (op : HostOp) (p : BitVec 32) (d : List Byte) : decodeHost (hostWord op p) d =
    if p &&& op.payloadMask == 0 then
      match readOperands (hostWord op p) d op with
      | .ok i => checkBurst d i
      | .error e => .error e
    else .error .reservedEncoding := by
  unfold decodeHost
  rw [fieldOp_hostWord, ofOpcode_opcode]
  simp only [accepts_hostWord] <;> rfl

/-! ### Fields of an encoded word -/

theorem extract_low {a k : Nat} (x : BitVec a) (z : BitVec k) : (x ++ z).extractLsb' 0 k = z := by
  rw [BitVec.extractLsb'_append_eq_of_add_le (by omega)]; ext i hi; simp

theorem extract_skip {a k : Nat} (x : BitVec a) (z : BitVec k) (s n : Nat) :
    (x ++ z).extractLsb' (k + s) n = x.extractLsb' s n := by
  ext i hi
  rw [BitVec.getElem_extractLsb', BitVec.getElem_extractLsb', BitVec.getLsbD_append, if_neg (by omega)]
  congr 1; omega

theorem fieldReg_encodeHR (op : HostOp) (r : Reg) (v : Byte) : fieldReg (encodeHR op r v) = r.number := by
  unfold fieldReg encodeHR
  rw [extract_hostWord _ _ 8 4 (by omega)]
  cases r <;> revert v <;> decide +kernel

theorem fieldVal_encodeHR (op : HostOp) (r : Reg) (v : Byte) : fieldVal (encodeHR op r v) = v := by
  unfold fieldVal encodeHR
  rw [extract_hostWord _ _ 0 8 (by omega)]
  exact BitVec.extractLsb'_append_eq_of_add_le (xhi := 0#20 ++ r.number) (xlo := v) (by omega) |>.trans (by simp)

theorem fieldVal_encodeHM (op : HostOp) (a : Addr) (v : Byte) : fieldVal (encodeHM op a v) = v := by
  unfold fieldVal encodeHM
  rw [extract_hostWord _ _ 0 8 (by omega)]
  exact BitVec.extractLsb'_append_eq_of_add_le (xhi := 0#8 ++ a) (xlo := v) (by omega) |>.trans (by simp)

theorem fieldAddr_encodeHM (op : HostOp) (a : Addr) (v : Byte) : fieldAddr (encodeHM op a v) = a := by
  unfold fieldAddr encodeHM
  rw [extract_hostWord _ _ 8 16 (by omega)]
  exact (extract_skip (0#8 ++ a) v 0 16).trans (extract_low _ _)

theorem payloadHR_clear (r : Reg) (v : Byte) : ((0#20 ++ r.number ++ v : BitVec 32) &&& 0xFFFFF000#32) = 0 := by
  cases r <;> revert v <;> decide +kernel

theorem payloadHM_clear (a : Addr) (v : Byte) : ((0#8 ++ a ++ v : BitVec 32) &&& 0xFF000000#32) = 0 := by
  have : (0xFF000000#32) = ((0xFF#8 ++ 0#16) ++ 0#8 : BitVec (8 + 16 + 8)) := by decide
  rw [this]
  refine (BitVec.and_append (x₁ := 0#8 ++ a) (y₁ := v) (x₂ := 0xFF#8 ++ 0#16) (y₂ := 0#8)).trans ?_
  rw [BitVec.and_append]; simp

theorem payloadHM_clear_read (a : Addr) : ((0#8 ++ a ++ 0#8 : BitVec 32) &&& 0xFF0000FF#32) = 0 := by
  have : (0xFF0000FF#32) = ((0xFF#8 ++ 0#16) ++ 0xFF#8 : BitVec (8 + 16 + 8)) := by decide
  rw [this]
  refine (BitVec.and_append (x₁ := 0#8 ++ a) (y₁ := 0#8) (x₂ := 0xFF#8 ++ 0#16) (y₂ := 0xFF#8)).trans ?_
  rw [BitVec.and_append]; simp

theorem fieldVal_encodeHP (op : HostOp) (c0 c1 c2 c3 : Byte) : fieldVal (encodeHP op c0 c1 c2 c3) = c0 := by
  unfold fieldVal encodeHP
  rw [extract_hostWord _ _ 0 8 (by omega)]
  exact BitVec.extractLsb'_append_eq_of_add_le (xhi := c3 ++ c2 ++ c1) (xlo := c0) (by omega) |>.trans (by simp)

theorem fieldC1_encodeHP (op : HostOp) (c0 c1 c2 c3 : Byte) : fieldC1 (encodeHP op c0 c1 c2 c3) = c1 := by
  unfold fieldC1 encodeHP
  rw [extract_hostWord _ _ 8 8 (by omega)]
  exact (extract_skip (c3 ++ c2 ++ c1) c0 0 8).trans (extract_low _ _)

theorem fieldC2_encodeHP (op : HostOp) (c0 c1 c2 c3 : Byte) : fieldC2 (encodeHP op c0 c1 c2 c3) = c2 := by
  unfold fieldC2 encodeHP
  rw [extract_hostWord _ _ 16 8 (by omega)]
  exact (extract_skip (c3 ++ c2 ++ c1) c0 8 8).trans ((extract_skip (c3 ++ c2) c1 0 8).trans (extract_low _ _))

theorem fieldC3_encodeHP (op : HostOp) (c0 c1 c2 c3 : Byte) : fieldC3 (encodeHP op c0 c1 c2 c3) = c3 := by
  unfold fieldC3 encodeHP
  rw [extract_hostWord _ _ 24 8 (by omega)]
  refine (extract_skip (c3 ++ c2 ++ c1) c0 16 8).trans ((extract_skip (c3 ++ c2) c1 8 8).trans ((extract_skip c3 c2 0 8).trans ?_))
  ext i hi; simp

theorem fieldE_encodeHE (op : HostOp) (e : Bool) : fieldE (encodeHE op e) = e := by cases op <;> cases e <;> decide

end Sys2Proof
end

