-- ==== Sys2Proof/Laws/State.lean ====
section
/-! SUPPORT. One lemma per field per update of State, by rfl, so that no proof unfolds a record update; and the
same for the Register Bank and the tracker's flags. -/

namespace Sys2Proof.Machine

/-! ### setReg -/

@[simp] theorem State.setReg_cfg (s : State) (r : Reg) (v : Byte) : (s.setReg r v).cfg = s.cfg := rfl
@[simp] theorem State.setReg_bufSize (s : State) (r : Reg) (v : Byte) : (s.setReg r v).bufSize = s.bufSize :=
    rfl
@[simp] theorem State.setReg_attached (s : State) (r : Reg) (v : Byte) : (s.setReg r v).attached = s.attached :=
    rfl
@[simp] theorem State.setReg_mem (s : State) (r : Reg) (v : Byte) : (s.setReg r v).mem = s.mem := rfl
@[simp] theorem State.setReg_regs (s : State) (r : Reg) (v : Byte) : (s.setReg r v).regs = s.regs.set r v :=
    rfl
@[simp] theorem State.setReg_phase (s : State) (r : Reg) (v : Byte) : (s.setReg r v).phase = s.phase := rfl
@[simp] theorem State.setReg_armed (s : State) (r : Reg) (v : Byte) : (s.setReg r v).armed = s.armed := rfl
@[simp] theorem State.setReg_sink (s : State) (r : Reg) (v : Byte) : (s.setReg r v).sink = s.sink := rfl
@[simp] theorem State.setReg_opal (s : State) (r : Reg) (v : Byte) : (s.setReg r v).opal = s.opal := rfl
@[simp] theorem State.setReg_sb (s : State) (r : Reg) (v : Byte) : (s.setReg r v).sb = s.sb := rfl
@[simp] theorem State.setReg_fb (s : State) (r : Reg) (v : Byte) : (s.setReg r v).fb = s.fb := rfl
@[simp] theorem State.setReg_irqTrace (s : State) (r : Reg) (v : Byte) : (s.setReg r v).irqTrace = s.irqTrace :=
    rfl
@[simp] theorem State.setReg_window (s : State) (r : Reg) (v : Byte) : (s.setReg r v).window = s.window := rfl
@[simp] theorem State.setReg_response (s : State) (r : Reg) (v : Byte) : (s.setReg r v).response = s.response :=
    rfl
@[simp] theorem State.setReg_inbox (s : State) (r : Reg) (v : Byte) : (s.setReg r v).inbox = s.inbox := rfl
@[simp] theorem State.setReg_draws (s : State) (r : Reg) (v : Byte) : (s.setReg r v).draws = s.draws := rfl

/-! ### setPhase -/

@[simp] theorem State.setPhase_cfg (s : State) (p : Phase) : (s.setPhase p).cfg = s.cfg := rfl
@[simp] theorem State.setPhase_bufSize (s : State) (p : Phase) : (s.setPhase p).bufSize = s.bufSize := rfl
@[simp] theorem State.setPhase_attached (s : State) (p : Phase) : (s.setPhase p).attached = s.attached := rfl
@[simp] theorem State.setPhase_mem (s : State) (p : Phase) : (s.setPhase p).mem = s.mem := rfl
@[simp] theorem State.setPhase_regs (s : State) (p : Phase) : (s.setPhase p).regs = s.regs := rfl
@[simp] theorem State.setPhase_phase (s : State) (p : Phase) : (s.setPhase p).phase = p := rfl
@[simp] theorem State.setPhase_armed (s : State) (p : Phase) : (s.setPhase p).armed = s.armed := rfl
@[simp] theorem State.setPhase_sink (s : State) (p : Phase) : (s.setPhase p).sink = s.sink := rfl
@[simp] theorem State.setPhase_opal (s : State) (p : Phase) : (s.setPhase p).opal = s.opal := rfl
@[simp] theorem State.setPhase_sb (s : State) (p : Phase) : (s.setPhase p).sb = s.sb := rfl
@[simp] theorem State.setPhase_fb (s : State) (p : Phase) : (s.setPhase p).fb = s.fb := rfl
@[simp] theorem State.setPhase_irqTrace (s : State) (p : Phase) : (s.setPhase p).irqTrace = s.irqTrace := rfl
@[simp] theorem State.setPhase_window (s : State) (p : Phase) : (s.setPhase p).window = s.window := rfl
@[simp] theorem State.setPhase_response (s : State) (p : Phase) : (s.setPhase p).response = s.response := rfl
@[simp] theorem State.setPhase_inbox (s : State) (p : Phase) : (s.setPhase p).inbox = s.inbox := rfl
@[simp] theorem State.setPhase_draws (s : State) (p : Phase) : (s.setPhase p).draws = s.draws := rfl

/-! ### setArmed -/

@[simp] theorem State.setArmed_cfg (s : State) (m : Mode) (b : Bool) : (s.setArmed m b).cfg = s.cfg := rfl
@[simp] theorem State.setArmed_bufSize (s : State) (m : Mode) (b : Bool) : (s.setArmed m b).bufSize = s.bufSize :=
    rfl
@[simp] theorem State.setArmed_attached (s : State) (m : Mode) (b : Bool) : (s.setArmed m b).attached = s.attached :=
    rfl
@[simp] theorem State.setArmed_mem (s : State) (m : Mode) (b : Bool) : (s.setArmed m b).mem = s.mem := rfl
@[simp] theorem State.setArmed_regs (s : State) (m : Mode) (b : Bool) : (s.setArmed m b).regs = s.regs := rfl
@[simp] theorem State.setArmed_phase (s : State) (m : Mode) (b : Bool) : (s.setArmed m b).phase = s.phase :=
    rfl
@[simp] theorem State.setArmed_armed (s : State) (m : Mode) (b : Bool) : (s.setArmed m b).armed = s.armed.set m b :=
    rfl
@[simp] theorem State.setArmed_sink (s : State) (m : Mode) (b : Bool) : (s.setArmed m b).sink = s.sink := rfl
@[simp] theorem State.setArmed_opal (s : State) (m : Mode) (b : Bool) : (s.setArmed m b).opal = s.opal := rfl
@[simp] theorem State.setArmed_sb (s : State) (m : Mode) (b : Bool) : (s.setArmed m b).sb = s.sb := rfl
@[simp] theorem State.setArmed_fb (s : State) (m : Mode) (b : Bool) : (s.setArmed m b).fb = s.fb := rfl
@[simp] theorem State.setArmed_irqTrace (s : State) (m : Mode) (b : Bool) : (s.setArmed m b).irqTrace = s.irqTrace :=
    rfl
@[simp] theorem State.setArmed_window (s : State) (m : Mode) (b : Bool) : (s.setArmed m b).window = s.window :=
    rfl
@[simp] theorem State.setArmed_response (s : State) (m : Mode) (b : Bool) : (s.setArmed m b).response = s.response :=
    rfl
@[simp] theorem State.setArmed_inbox (s : State) (m : Mode) (b : Bool) : (s.setArmed m b).inbox = s.inbox :=
    rfl
@[simp] theorem State.setArmed_draws (s : State) (m : Mode) (b : Bool) : (s.setArmed m b).draws = s.draws :=
    rfl

/-! ### setMem -/

@[simp] theorem State.setMem_cfg (s : State) (m : Memory) : (s.setMem m).cfg = s.cfg := rfl
@[simp] theorem State.setMem_bufSize (s : State) (m : Memory) : (s.setMem m).bufSize = s.bufSize := rfl
@[simp] theorem State.setMem_attached (s : State) (m : Memory) : (s.setMem m).attached = s.attached := rfl
@[simp] theorem State.setMem_mem (s : State) (m : Memory) : (s.setMem m).mem = m := rfl
@[simp] theorem State.setMem_regs (s : State) (m : Memory) : (s.setMem m).regs = s.regs := rfl
@[simp] theorem State.setMem_phase (s : State) (m : Memory) : (s.setMem m).phase = s.phase := rfl
@[simp] theorem State.setMem_armed (s : State) (m : Memory) : (s.setMem m).armed = s.armed := rfl
@[simp] theorem State.setMem_sink (s : State) (m : Memory) : (s.setMem m).sink = s.sink := rfl
@[simp] theorem State.setMem_opal (s : State) (m : Memory) : (s.setMem m).opal = s.opal := rfl
@[simp] theorem State.setMem_sb (s : State) (m : Memory) : (s.setMem m).sb = s.sb := rfl
@[simp] theorem State.setMem_fb (s : State) (m : Memory) : (s.setMem m).fb = s.fb := rfl
@[simp] theorem State.setMem_irqTrace (s : State) (m : Memory) : (s.setMem m).irqTrace = s.irqTrace := rfl
@[simp] theorem State.setMem_window (s : State) (m : Memory) : (s.setMem m).window = s.window := rfl
@[simp] theorem State.setMem_response (s : State) (m : Memory) : (s.setMem m).response = s.response := rfl
@[simp] theorem State.setMem_inbox (s : State) (m : Memory) : (s.setMem m).inbox = s.inbox := rfl
@[simp] theorem State.setMem_draws (s : State) (m : Memory) : (s.setMem m).draws = s.draws := rfl

/-! ### respond -/

@[simp] theorem State.respond_cfg (s : State) (r : Option Response) : (s.respond r).cfg = s.cfg := rfl
@[simp] theorem State.respond_bufSize (s : State) (r : Option Response) : (s.respond r).bufSize = s.bufSize :=
    rfl
@[simp] theorem State.respond_attached (s : State) (r : Option Response) : (s.respond r).attached = s.attached :=
    rfl
@[simp] theorem State.respond_mem (s : State) (r : Option Response) : (s.respond r).mem = s.mem := rfl
@[simp] theorem State.respond_regs (s : State) (r : Option Response) : (s.respond r).regs = s.regs := rfl
@[simp] theorem State.respond_phase (s : State) (r : Option Response) : (s.respond r).phase = s.phase := rfl
@[simp] theorem State.respond_armed (s : State) (r : Option Response) : (s.respond r).armed = s.armed := rfl
@[simp] theorem State.respond_sink (s : State) (r : Option Response) : (s.respond r).sink = s.sink := rfl
@[simp] theorem State.respond_opal (s : State) (r : Option Response) : (s.respond r).opal = s.opal := rfl
@[simp] theorem State.respond_sb (s : State) (r : Option Response) : (s.respond r).sb = s.sb := rfl
@[simp] theorem State.respond_fb (s : State) (r : Option Response) : (s.respond r).fb = s.fb := rfl
@[simp] theorem State.respond_irqTrace (s : State) (r : Option Response) : (s.respond r).irqTrace = s.irqTrace :=
    rfl
@[simp] theorem State.respond_window (s : State) (r : Option Response) : (s.respond r).window = s.window :=
    rfl
@[simp] theorem State.respond_response (s : State) (r : Option Response) : (s.respond r).response = r := rfl
@[simp] theorem State.respond_inbox (s : State) (r : Option Response) : (s.respond r).inbox = s.inbox := rfl
@[simp] theorem State.respond_draws (s : State) (r : Option Response) : (s.respond r).draws = s.draws := rfl

/-! ### updateMatch -/

@[simp] theorem State.updateMatch_cfg (s : State) : (s.updateMatch).cfg = s.cfg := rfl
@[simp] theorem State.updateMatch_bufSize (s : State) : (s.updateMatch).bufSize = s.bufSize := rfl
@[simp] theorem State.updateMatch_attached (s : State) : (s.updateMatch).attached = s.attached := rfl
@[simp] theorem State.updateMatch_mem (s : State) : (s.updateMatch).mem = s.mem := rfl
@[simp] theorem State.updateMatch_regs (s : State) : (s.updateMatch).regs = s.regs.set .stat (withMatch s.regs.stat (lineMatch s.regs)) :=
    rfl
@[simp] theorem State.updateMatch_phase (s : State) : (s.updateMatch).phase = s.phase := rfl
@[simp] theorem State.updateMatch_armed (s : State) : (s.updateMatch).armed = s.armed := rfl
@[simp] theorem State.updateMatch_sink (s : State) : (s.updateMatch).sink = s.sink := rfl
@[simp] theorem State.updateMatch_opal (s : State) : (s.updateMatch).opal = s.opal := rfl
@[simp] theorem State.updateMatch_sb (s : State) : (s.updateMatch).sb = s.sb := rfl
@[simp] theorem State.updateMatch_fb (s : State) : (s.updateMatch).fb = s.fb := rfl
@[simp] theorem State.updateMatch_irqTrace (s : State) : (s.updateMatch).irqTrace = s.irqTrace := rfl
@[simp] theorem State.updateMatch_window (s : State) : (s.updateMatch).window = s.window := rfl
@[simp] theorem State.updateMatch_response (s : State) : (s.updateMatch).response = s.response := rfl
@[simp] theorem State.updateMatch_inbox (s : State) : (s.updateMatch).inbox = s.inbox := rfl
@[simp] theorem State.updateMatch_draws (s : State) : (s.updateMatch).draws = s.draws := rfl

/-! ### scanLine -/

@[simp] theorem scanLine_cfg (s : State) (l : Nat) : (scanLine s l).cfg = s.cfg := rfl
@[simp] theorem scanLine_bufSize (s : State) (l : Nat) : (scanLine s l).bufSize = s.bufSize := rfl
@[simp] theorem scanLine_attached (s : State) (l : Nat) : (scanLine s l).attached = s.attached := rfl
@[simp] theorem scanLine_mem (s : State) (l : Nat) : (scanLine s l).mem = s.mem := rfl
@[simp] theorem scanLine_regs (s : State) (l : Nat) : (scanLine s l).regs = s.regs := rfl
@[simp] theorem scanLine_phase (s : State) (l : Nat) : (scanLine s l).phase = s.phase := rfl
@[simp] theorem scanLine_armed (s : State) (l : Nat) : (scanLine s l).armed = s.armed := rfl
@[simp] theorem scanLine_sink (s : State) (l : Nat) : (scanLine s l).sink = s.sink := rfl
@[simp] theorem scanLine_opal (s : State) (l : Nat) : (scanLine s l).opal = s.opal := rfl
@[simp] theorem scanLine_sb (s : State) (l : Nat) : (scanLine s l).sb = scan s.mem l (objSize s.regs.lcdc) :=
    rfl
@[simp] theorem scanLine_fb (s : State) (l : Nat) : (scanLine s l).fb = s.fb := rfl
@[simp] theorem scanLine_irqTrace (s : State) (l : Nat) : (scanLine s l).irqTrace = s.irqTrace := rfl
@[simp] theorem scanLine_window (s : State) (l : Nat) : (scanLine s l).window = s.window := rfl
@[simp] theorem scanLine_response (s : State) (l : Nat) : (scanLine s l).response = s.response := rfl
@[simp] theorem scanLine_inbox (s : State) (l : Nat) : (scanLine s l).inbox = s.inbox := rfl
@[simp] theorem scanLine_draws (s : State) (l : Nat) : (scanLine s l).draws = s.draws := rfl

/-! ### compositeLine -/

@[simp] theorem compositeLine_cfg (s : State) (l : Nat) : (compositeLine s l).cfg = s.cfg := rfl
@[simp] theorem compositeLine_bufSize (s : State) (l : Nat) : (compositeLine s l).bufSize = s.bufSize := rfl
@[simp] theorem compositeLine_attached (s : State) (l : Nat) : (compositeLine s l).attached = s.attached :=
    rfl
@[simp] theorem compositeLine_mem (s : State) (l : Nat) : (compositeLine s l).mem = s.mem := rfl
@[simp] theorem compositeLine_regs (s : State) (l : Nat) : (compositeLine s l).regs = s.regs := rfl
@[simp] theorem compositeLine_phase (s : State) (l : Nat) : (compositeLine s l).phase = s.phase := rfl
@[simp] theorem compositeLine_armed (s : State) (l : Nat) : (compositeLine s l).armed = s.armed := rfl
@[simp] theorem compositeLine_sink (s : State) (l : Nat) : (compositeLine s l).sink = s.sink := rfl
@[simp] theorem compositeLine_opal (s : State) (l : Nat) : (compositeLine s l).opal = s.opal := rfl
@[simp] theorem compositeLine_sb (s : State) (l : Nat) : (compositeLine s l).sb = s.sb := rfl
@[simp] theorem compositeLine_fb (s : State) (l : Nat) : (compositeLine s l).fb = s.fb.setIfInBounds l (lineOf s l) :=
    rfl
@[simp] theorem compositeLine_irqTrace (s : State) (l : Nat) : (compositeLine s l).irqTrace = s.irqTrace :=
    rfl
@[simp] theorem compositeLine_window (s : State) (l : Nat) : (compositeLine s l).window = s.window := rfl
@[simp] theorem compositeLine_response (s : State) (l : Nat) : (compositeLine s l).response = s.response :=
    rfl
@[simp] theorem compositeLine_inbox (s : State) (l : Nat) : (compositeLine s l).inbox = s.inbox := rfl
@[simp] theorem compositeLine_draws (s : State) (l : Nat) : (compositeLine s l).draws = s.draws := rfl

/-! ### blankFill -/

@[simp] theorem blankFill_cfg (s : State) : (blankFill s).cfg = s.cfg := rfl
@[simp] theorem blankFill_bufSize (s : State) : (blankFill s).bufSize = s.bufSize := rfl
@[simp] theorem blankFill_attached (s : State) : (blankFill s).attached = s.attached := rfl
@[simp] theorem blankFill_mem (s : State) : (blankFill s).mem = s.mem := rfl
@[simp] theorem blankFill_regs (s : State) : (blankFill s).regs = s.regs := rfl
@[simp] theorem blankFill_phase (s : State) : (blankFill s).phase = s.phase := rfl
@[simp] theorem blankFill_armed (s : State) : (blankFill s).armed = s.armed := rfl
@[simp] theorem blankFill_sink (s : State) : (blankFill s).sink = s.sink := rfl
@[simp] theorem blankFill_opal (s : State) : (blankFill s).opal = s.opal := rfl
@[simp] theorem blankFill_sb (s : State) : (blankFill s).sb = s.sb := rfl
@[simp] theorem blankFill_fb (s : State) : (blankFill s).fb = Vector.replicate 144 (Vector.replicate 160 s.cfg.blank) :=
    rfl
@[simp] theorem blankFill_irqTrace (s : State) : (blankFill s).irqTrace = s.irqTrace := rfl
@[simp] theorem blankFill_window (s : State) : (blankFill s).window = s.window := rfl
@[simp] theorem blankFill_response (s : State) : (blankFill s).response = s.response := rfl
@[simp] theorem blankFill_inbox (s : State) : (blankFill s).inbox = s.inbox := rfl
@[simp] theorem blankFill_draws (s : State) : (blankFill s).draws = s.draws := rfl

/-! ### notify -/

@[simp] theorem notify_cfg (s : State) (k : Interrupted) (m : Mode) : (notify k m s).cfg = s.cfg := rfl
@[simp] theorem notify_bufSize (s : State) (k : Interrupted) (m : Mode) : (notify k m s).bufSize = s.bufSize :=
    rfl
@[simp] theorem notify_attached (s : State) (k : Interrupted) (m : Mode) : (notify k m s).attached = s.attached :=
    rfl
@[simp] theorem notify_mem (s : State) (k : Interrupted) (m : Mode) : (notify k m s).mem = s.mem := rfl
@[simp] theorem notify_regs (s : State) (k : Interrupted) (m : Mode) : (notify k m s).regs = s.regs := rfl
@[simp] theorem notify_phase (s : State) (k : Interrupted) (m : Mode) : (notify k m s).phase = s.phase := rfl
@[simp] theorem notify_armed (s : State) (k : Interrupted) (m : Mode) : (notify k m s).armed = s.armed := rfl
@[simp] theorem notify_sink (s : State) (k : Interrupted) (m : Mode) : (notify k m s).sink = s.sink := rfl
@[simp] theorem notify_opal (s : State) (k : Interrupted) (m : Mode) : (notify k m s).opal = s.opal := rfl
@[simp] theorem notify_sb (s : State) (k : Interrupted) (m : Mode) : (notify k m s).sb = s.sb := rfl
@[simp] theorem notify_fb (s : State) (k : Interrupted) (m : Mode) : (notify k m s).fb = s.fb := rfl
@[simp] theorem notify_irqTrace (s : State) (k : Interrupted) (m : Mode) : (notify k m s).irqTrace = s.irqTrace ++ [{ ly := s.regs.ly, mode := m, sink := s.sink }] :=
    rfl
@[simp] theorem notify_window (s : State) (k : Interrupted) (m : Mode) : (notify k m s).window = if s.sink then some k else s.window :=
    rfl
@[simp] theorem notify_response (s : State) (k : Interrupted) (m : Mode) : (notify k m s).response = s.response :=
    rfl
@[simp] theorem notify_inbox (s : State) (k : Interrupted) (m : Mode) : (notify k m s).inbox = s.inbox := rfl
@[simp] theorem notify_draws (s : State) (k : Interrupted) (m : Mode) : (notify k m s).draws = s.draws := rfl

/-! ### Register Bank and tracker flags -/

theorem RegBank.get_set (b : RegBank) (r r' : Reg) (v : Byte) :
    (b.set r v).get r' = if r' = r then v else b.get r' := by
  cases r <;> cases r' <;> rfl

@[simp] theorem RegBank.get_set_same (b : RegBank) (r : Reg) (v : Byte) : (b.set r v).get r = v := by
  simp [RegBank.get_set]

theorem RegBank.get_set_other (b : RegBank) {r r' : Reg} (h : r' ≠ r) (v : Byte) :
    (b.set r v).get r' = b.get r' := by simp [RegBank.get_set, h]

/-- Two banks that read alike are the same bank. -/
theorem RegBank.eq_of_get {a b : RegBank} (h : ∀ r, a.get r = b.get r) : a = b := by
  have e := fun r => h r
  cases a; cases b
  simp only [RegBank.mk.injEq]
  exact ⟨e .lcdc, e .stat, e .scy, e .scx, e .ly, e .lyc, e .bgp, e .obp0, e .obp1, e .wy, e .wx⟩

theorem Armed.get_set (a : Armed) (m m' : Mode) (b : Bool) :
    (a.set m b).get m' = if m' = m then b else a.get m' := by
  cases m <;> cases m' <;> rfl

@[simp] theorem Armed.get_set_same (a : Armed) (m : Mode) (b : Bool) : (a.set m b).get m = b := by
  simp [Armed.get_set]

@[simp] theorem RegBank.set_stat_lcdc (b : RegBank) (v : Byte) : (b.set .stat v).lcdc = b.lcdc := rfl
@[simp] theorem RegBank.set_stat_stat (b : RegBank) (v : Byte) : (b.set .stat v).stat = v := rfl
@[simp] theorem RegBank.set_stat_scy (b : RegBank) (v : Byte) : (b.set .stat v).scy = b.scy := rfl
@[simp] theorem RegBank.set_stat_scx (b : RegBank) (v : Byte) : (b.set .stat v).scx = b.scx := rfl
@[simp] theorem RegBank.set_stat_ly (b : RegBank) (v : Byte) : (b.set .stat v).ly = b.ly := rfl
@[simp] theorem RegBank.set_stat_lyc (b : RegBank) (v : Byte) : (b.set .stat v).lyc = b.lyc := rfl
@[simp] theorem RegBank.set_stat_bgp (b : RegBank) (v : Byte) : (b.set .stat v).bgp = b.bgp := rfl
@[simp] theorem RegBank.set_stat_obp0 (b : RegBank) (v : Byte) : (b.set .stat v).obp0 = b.obp0 := rfl
@[simp] theorem RegBank.set_stat_obp1 (b : RegBank) (v : Byte) : (b.set .stat v).obp1 = b.obp1 := rfl
@[simp] theorem RegBank.set_stat_wy (b : RegBank) (v : Byte) : (b.set .stat v).wy = b.wy := rfl
@[simp] theorem RegBank.set_stat_wx (b : RegBank) (v : Byte) : (b.set .stat v).wx = b.wx := rfl
@[simp] theorem RegBank.set_ly_lcdc (b : RegBank) (v : Byte) : (b.set .ly v).lcdc = b.lcdc := rfl
@[simp] theorem RegBank.set_ly_stat (b : RegBank) (v : Byte) : (b.set .ly v).stat = b.stat := rfl
@[simp] theorem RegBank.set_ly_scy (b : RegBank) (v : Byte) : (b.set .ly v).scy = b.scy := rfl
@[simp] theorem RegBank.set_ly_scx (b : RegBank) (v : Byte) : (b.set .ly v).scx = b.scx := rfl
@[simp] theorem RegBank.set_ly_ly (b : RegBank) (v : Byte) : (b.set .ly v).ly = v := rfl
@[simp] theorem RegBank.set_ly_lyc (b : RegBank) (v : Byte) : (b.set .ly v).lyc = b.lyc := rfl
@[simp] theorem RegBank.set_ly_bgp (b : RegBank) (v : Byte) : (b.set .ly v).bgp = b.bgp := rfl
@[simp] theorem RegBank.set_ly_obp0 (b : RegBank) (v : Byte) : (b.set .ly v).obp0 = b.obp0 := rfl
@[simp] theorem RegBank.set_ly_obp1 (b : RegBank) (v : Byte) : (b.set .ly v).obp1 = b.obp1 := rfl
@[simp] theorem RegBank.set_ly_wy (b : RegBank) (v : Byte) : (b.set .ly v).wy = b.wy := rfl
@[simp] theorem RegBank.set_ly_wx (b : RegBank) (v : Byte) : (b.set .ly v).wx = b.wx := rfl

end Sys2Proof.Machine
end

