-- ==== Sys2Proof/Laws/Stat.lean ====
section
/-! SUPPORT. STAT's fields after each way the register is written (R36, R37, R190, R191). -/

namespace Sys2Proof.Machine

@[simp] theorem modeField_withMode (st : Byte) (m : Mode) : modeField (withMode st m) = modeCode m := by
  cases m <;> revert st <;> decide +kernel

@[simp] theorem hostBits_withMode (st : Byte) (m : Mode) : hostBits (withMode st m) = hostBits st := by
  cases m <;> revert st <;> decide +kernel

@[simp] theorem modeField_withMatch (st : Byte) (b : Bool) : modeField (withMatch st b) = modeField st := by
  cases b <;> revert st <;> decide +kernel

@[simp] theorem matchFlag_withMatch (st : Byte) (b : Bool) : matchFlag (withMatch st b) = b := by
  cases b <;> revert st <;> decide +kernel

@[simp] theorem hostBits_withMatch (st : Byte) (b : Bool) : hostBits (withMatch st b) = hostBits st := by
  cases b <;> revert st <;> decide +kernel

/-- The enables are among the host's bits. -/
theorem ieLyc_eq (st : Byte) : ieLyc st = (hostBits st).getLsbD 3 := by
  revert st; decide +kernel

theorem modeEnable_eq (st : Byte) (m : Mode) : modeEnable st m =
    match m with
    | .hbl => (hostBits st).getLsbD 0
    | .vbl => (hostBits st).getLsbD 1
    | .oam => (hostBits st).getLsbD 2
    | .xfer => false := by
  cases m <;> revert st <;> decide +kernel

/-- Two STAT values with the same host bits enable the same conditions. -/
theorem condAt_congr {st st' : Byte} (h : hostBits st' = hostBits st) (lyc : Byte) (m : Mode) (ly : Byte) :
    condAt st' lyc m ly = condAt st lyc m ly := by
  unfold condAt
  rw [modeEnable_eq, modeEnable_eq, ieLyc_eq, ieLyc_eq, h]

/-- STAT is its host bits over its engine bits (R36, R37). -/
theorem hostBits_append (x : BitVec 5) (y : BitVec 3) : hostBits (x ++ y : BitVec (5 + 3)) = x := by
  revert x y; decide +kernel

theorem engineBits_append (x : BitVec 5) (y : BitVec 3) : engineBits (x ++ y : BitVec (5 + 3)) = y := by
  revert x y; decide +kernel

@[simp] theorem hostBits_undefinedStat (new draw : Byte) : hostBits (undefinedStat new draw) = hostBits new :=
  hostBits_append _ _

@[simp] theorem engineBits_undefinedStat (new draw : Byte) :
    engineBits (undefinedStat new draw) = engineBits draw :=
  engineBits_append _ _

end Sys2Proof.Machine
end

