-- ==== Sys2Proof/Laws/Query.lean ====
section
/-! SUPPORT. What a sequencer step does up to the end of its query, said once for the six steps that enter or poll
a mode (R190, R191, R212, R214), and what is left of each after it. -/

namespace Sys2Proof.Machine

/-- The part of step `k` that ends with the query. -/
def queryPart (k : Interrupted) (s : State) : State :=
  match k with
  | .sqBegin => enterMode .sqBegin .oam (s.setReg .ly 0)
  | .sqXfer => enterMode .sqXfer .xfer s
  | .sqHbl => enterMode .sqHbl .hbl s
  | .sqLine => enterMode .sqLine .oam (s.setReg .ly (s.regs.ly + 1))
  | .sqVbl => enterMode .sqVbl .vbl (s.setReg .ly 144)
  | .sqVline => pollMode .sqVline .vbl (s.setReg .ly (s.regs.ly + 1))

/-- Each of the six steps is its query part, and then the rest unless a window opened. -/
theorem exec_interrupted (k : Interrupted) (s : State) :
    exec k.instr s = .next (continueStep k (queryPart k s)) := by
  cases k <;> rfl

/-- A query writes the mode's flag, the trace and the window, and those only when it fires (R212, R214). -/
theorem query_eq (k : Interrupted) (m : Mode) (s : State) :
    query k m s =
      { s with
        armed := if s.armed.get m && cond s.regs.stat m then s.armed.set m false else s.armed
        irqTrace := s.irqTrace ++ (if s.armed.get m && cond s.regs.stat m then
          [{ ly := s.regs.ly, mode := m, sink := s.sink }] else [])
        window := if (s.armed.get m && cond s.regs.stat m) && s.sink then some k else s.window } := by
  unfold query notify
  obtain ⟨_, _, _, _, _, _, _, sink, _, _, _, _, _, _, _, _⟩ := s
  split <;> cases sink <;> simp_all [State.setArmed]

/-- The condition a query sees just after MATCH was recomputed is the condition at LY. -/
theorem cond_updateMatch (st : Byte) (m : Mode) (r : RegBank) :
    cond (withMatch st (lineMatch r)) m = condAt st r.lyc m r.ly := by
  have h : hostBits (withMatch st (lineMatch r)) = hostBits st := by simp
  unfold cond condAt
  rw [modeEnable_eq, ieLyc_eq, h, ← modeEnable_eq, ← ieLyc_eq, matchFlag_withMatch]
  rfl

theorem condAt_withMode (st lyc ly : Byte) (m m' : Mode) :
    condAt (withMode st m) lyc m' ly = condAt st lyc m' ly :=
  condAt_congr (by simp) ..

/-- Everything `EnterMode` does (R190). -/
theorem enterMode_eq (k : Interrupted) (m : Mode) (s : State) :
    enterMode k m s =
      { s with
        regs := s.regs.set .stat (withMatch (withMode s.regs.stat m) (s.regs.ly == s.regs.lyc))
        armed := s.armed.set m !condAt s.regs.stat s.regs.lyc m s.regs.ly
        irqTrace := s.irqTrace ++ (if condAt s.regs.stat s.regs.lyc m s.regs.ly then
          [{ ly := s.regs.ly, mode := m, sink := s.sink }] else [])
        window := if condAt s.regs.stat s.regs.lyc m s.regs.ly && s.sink then some k else s.window } := by
  have e : cond (withMatch (withMode s.regs.stat m) (lineMatch s.regs)) m =
      condAt s.regs.stat s.regs.lyc m s.regs.ly := by
    rw [cond_updateMatch, condAt_withMode]
  have e' : lineMatch (s.regs.set .stat (withMode s.regs.stat m)) = lineMatch s.regs := rfl
  rw [enterMode, query_eq]
  simp only [State.setArmed_armed, Armed.get_set_same, State.setArmed_regs, State.updateMatch_regs,
    State.setReg_regs, RegBank.set_stat_stat, e', e, Bool.true_and]
  cases condAt s.regs.stat s.regs.lyc m s.regs.ly <;> cases m <;> rfl

/-- Everything `PollMode` does (R191): MODE is not written and nothing is armed. -/
theorem pollMode_eq (k : Interrupted) (m : Mode) (s : State) :
    pollMode k m s =
      { s with
        regs := s.regs.set .stat (withMatch s.regs.stat (s.regs.ly == s.regs.lyc))
        armed := s.armed.set m (s.armed.get m && !condAt s.regs.stat s.regs.lyc m s.regs.ly)
        irqTrace := s.irqTrace ++ (if s.armed.get m && condAt s.regs.stat s.regs.lyc m s.regs.ly then
          [{ ly := s.regs.ly, mode := m, sink := s.sink }] else [])
        window := if (s.armed.get m && condAt s.regs.stat s.regs.lyc m s.regs.ly) && s.sink then some k
          else s.window } := by
  rw [pollMode, query_eq]
  simp only [State.updateMatch_armed, State.updateMatch_regs, RegBank.set_stat_stat, cond_updateMatch,
    State.updateMatch_irqTrace, State.updateMatch_sink, State.updateMatch_window, RegBank.set_stat_ly]
  have hset : ∀ b, s.armed.get m = b → s.armed.set m b = s.armed := by
    rintro b rfl; cases m <;> rfl
  cases hc : condAt s.regs.stat s.regs.lyc m s.regs.ly <;> cases ha : s.armed.get m
  · simp [hset _ ha]; rfl
  · simp [hset _ ha]; rfl
  · simp [hset _ ha]; rfl
  · simp; rfl

/-- What the query part of a step leaves, in the terms of Safety. -/
theorem queryPart_queried (k : Interrupted) (s : State) : k.Queried s (queryPart k s) := by
  have hget : ∀ (b : RegBank) (v : Byte) (r : Reg), r ≠ .stat → (b.set .stat v).get r = b.get r :=
    fun b v r h => RegBank.get_set_other b h v
  have hly : ∀ (b : RegBank) (v : Byte) (r : Reg), r ≠ .ly → (b.set .ly v).get r = b.get r :=
    fun b v r h => RegBank.get_set_other b h v
  cases k
  all_goals
    unfold Interrupted.Queried queryPart
    simp only [enterMode_eq, pollMode_eq, State.setReg_regs, State.setReg_armed, State.setReg_irqTrace,
      State.setReg_sink, RegBank.set_stat_ly, RegBank.set_ly_ly, RegBank.set_ly_stat, RegBank.set_ly_lyc,
      RegBank.set_stat_stat, matchFlag_withMatch, hostBits_withMatch, hostBits_withMode,
      modeField_withMatch, modeField_withMode, Armed.get_set, Interrupted.fires, Interrupted.enters,
      Interrupted.mode, Interrupted.line]
    refine ⟨by trivial, by simp, by trivial, by trivial, ?_, ?_, ?_, by simp <;> rfl⟩
    · intro r h1 h2
      first
        | rw [hget _ _ _ h2, hly _ _ _ h1]
        | rw [hget _ _ _ h2]
    · first
        | (simp; done)
        | (cases s.armed.get .vbl <;> simp)
    · intro m hm; simp [hm]

/-- The window after the query part (R214). -/
theorem queryPart_window (k : Interrupted) (s : State) :
    (queryPart k s).window = if k.delivered s then some k else s.window := by
  cases k <;> simp [queryPart, enterMode_eq, pollMode_eq, Interrupted.delivered, Interrupted.fires,
    Interrupted.enters, Interrupted.mode, Interrupted.line]

/-- The query part touches the registers, the tracker, the trace and the window, nothing else. -/
theorem queryPart_frame (k : Interrupted) (s : State) :
    queryPart k s = { s with regs := (queryPart k s).regs, armed := (queryPart k s).armed
                             irqTrace := (queryPart k s).irqTrace, window := (queryPart k s).window } := by
  cases k <;> simp only [queryPart, enterMode_eq, pollMode_eq] <;> rfl

/-- A step that no notification stops: its query part, then its work (R194). -/
theorem exec_undelivered {k : Interrupted} {s : State} (hw : s.window = none) (h : k.delivered s = false) :
    exec k.instr s = .next (finishStep k (queryPart k s)) := by
  rw [exec_interrupted, continueStep, queryPart_window, h]; simp [hw]

/-- A step a notification stops: its query part only (R216). -/
theorem exec_delivered {k : Interrupted} {s : State} (h : k.delivered s = true) :
    exec k.instr s = .next (queryPart k s) := by
  rw [exec_interrupted, continueStep, queryPart_window, h]; simp

/-! ### The rest of a step -/

/-- What is left of a step writes the phase, the sprite buffer and the frame buffer, nothing else (R216). -/
theorem finishStep_frame (k : Interrupted) (s : State) :
    finishStep k s = { s with phase := (finishStep k s).phase, sb := (finishStep k s).sb
                              fb := (finishStep k s).fb } := by
  cases k <;> rfl

@[simp] theorem finishStep_cfg (k : Interrupted) (s : State) : (finishStep k s).cfg = s.cfg := by
  cases k <;> rfl
@[simp] theorem finishStep_attached (k : Interrupted) (s : State) :
    (finishStep k s).attached = s.attached := by cases k <;> rfl
@[simp] theorem finishStep_mem (k : Interrupted) (s : State) : (finishStep k s).mem = s.mem := by
  cases k <;> rfl
@[simp] theorem finishStep_regs (k : Interrupted) (s : State) : (finishStep k s).regs = s.regs := by
  cases k <;> rfl
@[simp] theorem finishStep_armed (k : Interrupted) (s : State) : (finishStep k s).armed = s.armed := by
  cases k <;> rfl
@[simp] theorem finishStep_sink (k : Interrupted) (s : State) : (finishStep k s).sink = s.sink := by
  cases k <;> rfl
@[simp] theorem finishStep_opal (k : Interrupted) (s : State) : (finishStep k s).opal = s.opal := by
  cases k <;> rfl
@[simp] theorem finishStep_irqTrace (k : Interrupted) (s : State) :
    (finishStep k s).irqTrace = s.irqTrace := by cases k <;> rfl
@[simp] theorem finishStep_window (k : Interrupted) (s : State) :
    (finishStep k s).window = s.window := by cases k <;> rfl

/-- The phase a step ends in (R195 to R200). -/
theorem finishStep_phase (k : Interrupted) (s : State) : (finishStep k s).phase =
    match k with
    | .sqBegin | .sqLine => .oam
    | .sqXfer => .xfer
    | .sqHbl => .hbl
    | .sqVbl => .vbl
    | .sqVline => s.phase := by
  cases k <;> rfl

/-- The sprite buffer a step ends with. -/
theorem finishStep_sb (k : Interrupted) (s : State) : (finishStep k s).sb =
    match k with
    | .sqBegin => scan s.mem 0 (objSize s.regs.lcdc)
    | .sqLine => scan s.mem s.regs.ly.toNat (objSize s.regs.lcdc)
    | .sqXfer | .sqHbl | .sqVbl | .sqVline => s.sb := by
  cases k <;> rfl

/-- The frame buffer a step ends with. -/
theorem finishStep_fb (k : Interrupted) (s : State) : (finishStep k s).fb =
    match k with
    | .sqXfer => s.fb.setIfInBounds s.regs.ly.toNat (lineOf s s.regs.ly.toNat)
    | .sqBegin | .sqLine | .sqHbl | .sqVbl | .sqVline => s.fb := by
  cases k <;> rfl

end Sys2Proof.Machine
end

