-- ==== Sys2Proof/Laws/Pixel.lean ====
section
/-! SUPPORT. What the compositor looks at: two states that agree on the parameters, the memory, the registers but LY
and STAT, the output palette and the sprite buffer compose the same pixels (R170, R183). -/

namespace Sys2Proof.Machine

theorem pixel_congr {s t : State} (hcfg : t.cfg = s.cfg) (hmem : t.mem = s.mem)
    (hregs : ∀ r, r ≠ .ly → r ≠ .stat → t.regs.get r = s.regs.get r) (hopal : t.opal = s.opal)
    (hsb : t.sb = s.sb) (line col : Nat) : pixel t line col = pixel s line col := by
  have a1 := hregs .lcdc (by decide) (by decide)
  have a2 := hregs .scy (by decide) (by decide)
  have a3 := hregs .scx (by decide) (by decide)
  have a4 := hregs .bgp (by decide) (by decide)
  have a5 := hregs .obp0 (by decide) (by decide)
  have a6 := hregs .obp1 (by decide) (by decide)
  have a7 := hregs .wy (by decide) (by decide)
  have a8 := hregs .wx (by decide) (by decide)
  simp only [RegBank.get] at a1 a2 a3 a4 a5 a6 a7 a8
  have hL : ∀ m x y, layerIndex t m x y = layerIndex s m x y := by
    intro m x y; simp only [layerIndex, a1, hcfg, hmem]
  have hbg : bgwinIndex t line col = bgwinIndex s line col := by
    simp only [bgwinIndex, windowCovers, windowIndex, backgroundIndex, windowLeft, a1, a2, a3, a7, a8, hL]; rfl
  have hd : drawSprite t line col = drawSprite s line col := by
    funext bg i p; simp only [drawSprite, spriteIndex, heldBack, a1, hmem]; rfl
  have hr : resolve t line col = resolve s line col := by
    simp only [resolve, drawSprites, hbg, hd, a1, hsb]
  simp only [pixel, hr, hopal]
  cases (resolve s line col).preg <;> simp only [RegBank.palette, a4, a5, a6]

theorem lineOf_congr {s t : State} (hcfg : t.cfg = s.cfg) (hmem : t.mem = s.mem)
    (hregs : ∀ r, r ≠ .ly → r ≠ .stat → t.regs.get r = s.regs.get r) (hopal : t.opal = s.opal)
    (hsb : t.sb = s.sb) (line : Nat) : lineOf t line = lineOf s line := by
  simp only [lineOf, pixel_congr hcfg hmem hregs hopal hsb]

/-- The same for a line of a frame in progress, whatever the sprite buffers hold. -/
theorem frameLine_congr {s t : State} (hcfg : t.cfg = s.cfg) (hmem : t.mem = s.mem)
    (hregs : ∀ r, r ≠ .ly → r ≠ .stat → t.regs.get r = s.regs.get r) (hopal : t.opal = s.opal)
    (line : Nat) : frameLine t line = frameLine s line := by
  have hl : t.regs.lcdc = s.regs.lcdc := hregs .lcdc (by decide) (by decide)
  unfold frameLine
  apply lineOf_congr
  · exact hcfg
  · exact hmem
  · exact hregs
  · exact hopal
  · simp only [hmem, hl]

/-- The query part of a step changes no pixel (R86). -/
theorem lineOf_queryPart (k : Interrupted) (s : State) (line : Nat) :
    lineOf (queryPart k s) line = lineOf s line := by
  have hf := queryPart_frame k s
  exact lineOf_congr (by rw [hf]) (by rw [hf]) (queryPart_queried k s).2.2.2.2.1 (by rw [hf]) (by rw [hf]) line

@[simp] theorem scan_length_le (m : Memory) (line : Nat) (size16 : Bool) :
    (scan m line size16).length ≤ Config.maxSprites :=
  List.length_take_le _ _

theorem scan_pairwise (m : Memory) (line : Nat) (size16 : Bool) :
    (scan m line size16).Pairwise (· < ·) :=
  ((List.pairwise_lt_finRange 40).filter _).sublist (List.take_sublist _ _)

end Sys2Proof.Machine
end

