-- ==== Sys2Proof/Laws/Run.lean ====
section
/-! SUPPORT. Runs of the machine: one step more, and one run after another. -/

namespace Sys2Proof.Machine

theorem run_next {s t : State} (h : step s = .next t) (n : Nat) : core.run (n + 1) s = core.run n t := by
  have e := Host.Core.run.eq_2 core s n
  rw [show core.step s = .next t from h] at e
  exact e

theorem run_add {s t : State} {m n : Nat} (h : core.run m s = .next t) :
    core.run (m + n) s = core.run n t := by
  induction m generalizing s with
  | zero =>
    have e : s = t := Host.Outcome.next.inj ((Host.Core.run.eq_1 core s).symm.trans h)
    subst e; rw [Nat.zero_add]
  | succ m ih =>
    have e := (Host.Core.run.eq_2 core s m).symm.trans h
    split at e
    · next u hu => rw [Nat.add_right_comm]; exact (run_next hu _).trans (ih e)
    · cases e
    · cases e

end Sys2Proof.Machine
end

