-- ==== Sys2Proof/Laws/Memory.lean ====
section
/-! SUPPORT. Memory: read after write, and that every memory operation keeps the canonical form. -/

namespace Sys2Proof.Machine

/-- A read below every listed address finds nothing listed. -/
theorem Memory.read_of_lt {m : Memory} {a : Nat} (h : ∀ c ∈ m, a < c.1) : m.read a = Memory.unlisted := by
  induction m with
  | nil => rfl
  | cons c m ih =>
    have hc : a < c.1 := h c (by simp)
    simp only [Memory.read]
    rw [if_neg (by omega)]
    exact ih fun d hd => h d (by simp [hd])

/-- Read after write: the value at the written address, everything else as before. -/
theorem Memory.read_write {m : Memory} (hm : m.Pairwise fun c d => c.1 < d.1) (a : Nat) (v : Byte)
    (b : Nat) : (m.write a v).read b = if b = a then v else m.read b := by
  induction m with
  | nil =>
    unfold Memory.write
    by_cases hv : v = Memory.unlisted
    · simp only [hv, if_true, Memory.read]; split <;> rfl
    · simp only [hv, if_false, Memory.read]
      by_cases h : b = a
      · simp [h]
      · simp [h, Ne.symm h]
  | cons c m ih =>
    obtain ⟨k, w⟩ := c
    have hlt : ∀ d ∈ m, k < d.1 := (List.pairwise_cons.mp hm).1
    have ih := ih (List.pairwise_cons.mp hm).2
    simp only [Memory.write]
    by_cases h1 : k < a
    · simp only [h1, if_true, Memory.read, ih]
      by_cases hk : k = b
      · simp [hk, show b ≠ a by omega]
      · simp [hk]
    · simp only [h1, if_false]
      by_cases h2 : k = a
      · subst h2
        by_cases hv : v = Memory.unlisted
        · simp only [if_true, hv]
          by_cases hb : b = k
          · subst hb; simp [Memory.read_of_lt hlt]
          · simp [Memory.read, hb, Ne.symm hb]
        · simp only [if_true, hv, if_false, Memory.read]
          by_cases hb : b = k
          · simp [hb]
          · simp [hb, Ne.symm hb]
      · simp only [h2, if_false]
        by_cases hv : v = Memory.unlisted
        · simp only [hv, if_true]
          by_cases hb : b = a
          · subst hb
            rw [if_pos rfl]
            refine Memory.read_of_lt fun d hd => ?_
            rcases List.mem_cons.mp hd with rfl | hd
            · simp; omega
            · have := hlt d hd; omega
          · simp [hb]
        · simp only [hv, if_false, Memory.read]
          by_cases hb : b = a
          · simp [hb]
          · simp [hb, Ne.symm hb]

/-- What a written memory lists: the written cell and cells it listed before. -/
theorem Memory.mem_write {m : Memory} {a : Nat} {v : Byte} {c : Host.Cell} (h : c ∈ m.write a v) :
    (c = (a, v) ∧ v ≠ Memory.unlisted) ∨ c ∈ m := by
  induction m with
  | nil =>
    unfold Memory.write at h
    split at h
    · simp at h
    · left; simp_all
  | cons d m ih =>
    obtain ⟨k, w⟩ := d
    simp only [Memory.write] at h
    split at h
    · rcases List.mem_cons.mp h with rfl | h
      · right; simp
      · rcases ih h with h | h
        · left; exact h
        · right; simp [h]
    · split at h
      · split at h
        · right; simp [h]
        · rcases List.mem_cons.mp h with rfl | h
          · left; exact ⟨rfl, ‹_›⟩
          · right; simp [h]
      · split at h
        · right; exact h
        · rcases List.mem_cons.mp h with rfl | h
          · left; exact ⟨rfl, ‹_›⟩
          · right; exact h

theorem Memory.write_pairwise {m : Memory} (hm : m.Pairwise fun c d => c.1 < d.1) (a : Nat) (v : Byte) :
    (m.write a v).Pairwise fun c d => c.1 < d.1 := by
  induction m with
  | nil => unfold Memory.write; split <;> simp
  | cons d m ih =>
    obtain ⟨k, w⟩ := d
    obtain ⟨hlt, hm'⟩ := List.pairwise_cons.mp hm
    simp only [Memory.write]
    split
    · refine List.pairwise_cons.mpr ⟨fun c hc => ?_, ih hm'⟩
      rcases Memory.mem_write hc with ⟨rfl, -⟩ | hc
      · simpa
      · exact hlt c hc
    · split
      · split
        · exact hm'
        · next hk _ => subst hk; exact List.pairwise_cons.mpr ⟨hlt, hm'⟩
      · split
        · exact hm
        · next h1 h2 _ =>
          refine List.pairwise_cons.mpr ⟨fun c hc => ?_, hm⟩
          rcases List.mem_cons.mp hc with rfl | hc
          · simp; omega
          · have := hlt c hc; simp only at this ⊢; omega

/-- A write inside the 64 KiB keeps the canonical form. -/
theorem Memory.write_wf {m : Memory} (hm : m.wf) {a : Nat} (ha : a < Config.memSize) (v : Byte) :
    (m.write a v).wf := by
  refine ⟨Memory.write_pairwise hm.1 a v, fun c hc => ?_⟩
  rcases Memory.mem_write hc with ⟨rfl, hv⟩ | hc
  · exact ⟨ha, hv⟩
  · exact hm.2 c hc

theorem Memory.writeBytes_wf {m : Memory} (hm : m.wf) (ds : List Byte) :
    ∀ {base : Nat}, base + ds.length ≤ Config.memSize → (m.writeBytes base ds).wf := by
  induction ds generalizing m with
  | nil => intro base _; exact hm
  | cons d ds ih =>
    intro base h
    simp only [List.length_cons] at h
    exact ih (Memory.write_wf hm (by omega) d) (by omega)

/-- Reading after consecutive bytes were written. -/
theorem Memory.read_writeBytes {m : Memory} (hm : m.Pairwise fun c d => c.1 < d.1) (ds : List Byte)
    (base a : Nat) : (m.writeBytes base ds).read a =
      if h : base ≤ a ∧ a - base < ds.length then ds[a - base] else m.read a := by
  induction ds generalizing m base with
  | nil => simp [Memory.writeBytes]
  | cons d ds ih =>
    rw [Memory.writeBytes, ih (Memory.write_pairwise hm _ _), Memory.read_write hm]
    by_cases h1 : a = base
    · subst h1
      rw [dif_neg (by omega), dif_pos (by simp)]
      simp
    · by_cases h2 : base + 1 ≤ a ∧ a - (base + 1) < ds.length
      · have e : a - base = (a - (base + 1)) + 1 := by omega
        rw [dif_pos h2, dif_pos ⟨by omega, by simp; omega⟩]
        simp [e]
      · rw [dif_neg h2, if_neg h1, dif_neg (by simp; omega)]

theorem Memory.ofCells_wf (cs : List Host.Cell) : ∀ {m : Memory}, m.wf → (Memory.ofCells cs m).wf := by
  induction cs with
  | nil => intro m hm; exact hm
  | cons c cs ih =>
    intro m hm
    unfold Memory.ofCells
    refine ih ?_
    split
    · exact Memory.write_wf hm ‹_› _
    · exact hm

theorem Memory.nil_wf : Memory.wf [] := by simp [Memory.wf]

end Sys2Proof.Machine
end

