-- ==== Sys2Proof/Laws/Host.lean ====
section
/-! SUPPORT. The three acceptance rules (R130, R217), each said once in both directions, and what a host write to a
register does (R37, R133). -/

namespace Sys2Proof.Machine

theorem whenIdle_of_idle {s : State} (h : s.Idle) (r : Refusal) (k : Host.Outcome State Fault Refusal) :
    whenIdle s r k = k := by
  obtain ⟨h1, h2, h3⟩ := h
  simp [whenIdle, h1, h2, h3]

/-- A write that answers a next state was made in an idle block. -/
theorem idle_of_whenIdle {s t : State} {r : Refusal} {k : Host.Outcome State Fault Refusal}
    (h : whenIdle s r k = .next t) : s.Idle ∧ k = .next t := by
  unfold whenIdle at h
  split at h <;> try contradiction
  split at h <;> try contradiction
  split at h <;> try contradiction
  rename_i h1 h2 h3
  exact ⟨⟨h1, by simpa using h2, h3⟩, h⟩

theorem whenReadable_of_readable {s : State} (h : s.Readable) (k : Host.Outcome State Fault Refusal) :
    whenReadable s k = k := by
  obtain ⟨h1, h2⟩ := h
  unfold whenReadable
  rw [if_pos h1]
  split
  · rfl
  · next hw => rw [if_pos (h2.resolve_left (by simpa using hw))]

theorem readable_of_whenReadable {s t : State} {k : Host.Outcome State Fault Refusal}
    (h : whenReadable s k = .next t) : s.Readable ∧ k = .next t := by
  unfold whenReadable at h
  split at h
  · rename_i h1
    split at h
    · rename_i h2
      exact ⟨⟨h1, .inl (by intro e; simp [e] at h2)⟩, h⟩
    · split at h
      · rename_i h3
        exact ⟨⟨h1, .inr h3⟩, h⟩
      · cases h
  · cases h

theorem unattached_of_whenUnattached {s t : State} {k : Host.Outcome State Fault Refusal}
    (h : whenUnattached s k = .next t) :
    s.attached = false ∧ s.window = none ∧ s.phase = .wait ∧ k = .next t := by
  unfold whenUnattached at h
  split at h <;> try contradiction
  split at h <;> try contradiction
  split at h <;> try contradiction
  rename_i h1 h2 h3
  exact ⟨by simpa using h3, by simpa using h1, h2, h⟩

theorem whenUnattached_of {s : State} (h1 : s.attached = false) (h2 : s.window = none)
    (h3 : s.phase = .wait) (k : Host.Outcome State Fault Refusal) : whenUnattached s k = k := by
  simp [whenUnattached, h1, h2, h3]

/-- A host write changes the register bank and the draw counter, nothing else. -/
theorem hostWriteReg_frame (s : State) (r : Reg) (v : Byte) :
    s.hostWriteReg r v = { s with regs := (s.hostWriteReg r v).regs, draws := (s.hostWriteReg r v).draws } := by
  unfold State.hostWriteReg State.hostWriteStat
  split
  · split <;> rfl
  · rfl

/-- No other register changes (R31, R133). -/
theorem hostWriteReg_get_other {s : State} {r r' : Reg} (h : r' ≠ r) (v : Byte) :
    (s.hostWriteReg r v).regs.get r' = s.regs.get r' := by
  unfold State.hostWriteReg State.hostWriteStat
  split
  · next e => subst e; split <;> simp [RegBank.get_set_other _ h]
  · simp [RegBank.get_set_other _ h]

/-- A register other than STAT takes the byte written (R133). -/
theorem hostWriteReg_get_same {s : State} {r : Reg} (h : r ≠ .stat) (v : Byte) :
    (s.hostWriteReg r v).regs.get r = v ∧ (s.hostWriteReg r v).draws = s.draws := by
  simp [State.hostWriteReg, h]

/-- STAT takes the byte written where that leaves bits 2:0 alone (R37). -/
theorem hostWriteReg_stat_defined {s : State} {v : Byte} (h : engineBits v = engineBits s.regs.stat) :
    (s.hostWriteReg .stat v).regs.stat = v ∧ (s.hostWriteReg .stat v).draws = s.draws := by
  simp [State.hostWriteReg, State.hostWriteStat, h]

/-- Otherwise bits 7:3 take the value written and bits 2:0 those of the next draw (R37). -/
theorem hostWriteReg_stat_undefined {s : State} {v : Byte} (h : engineBits v ≠ engineBits s.regs.stat) :
    (s.hostWriteReg .stat v).regs.stat = undefinedStat v (Config.freeByte s.draws) ∧
      (s.hostWriteReg .stat v).draws = s.draws + 1 := by
  simp [State.hostWriteReg, State.hostWriteStat, h]

end Sys2Proof.Machine
end

