-- ==== Sys2Proof/Laws/Step.lean ====
section
/-! SUPPORT. What one step can do, said once: the step's inversion lemma, and the selection of the sequencer's
steps (R108). -/

namespace Sys2Proof.Machine

/-- The step a sequencer position selects (R108); none at WAIT. -/
def selected (s : State) : Option Instr :=
  match s.phase with
  | .wait => none
  | .start => some (if lcdEn s.regs.lcdc then .sqBegin else .sqBlank)
  | .oam => some .sqXfer
  | .xfer => some .sqHbl
  | .hbl => some (if s.regs.ly = 143 then .sqVbl else .sqLine)
  | .vbl => some (if s.regs.ly = 153 then .sqEnd else .sqVline)

/-- The selection map of R108, row by row. -/
theorem decodeSel_encodeSel (p : Phase) (c : Bool) :
    decodeSel (encodeSel p c) =
      match p, c with
      | .start, false => .ok .sqBlank
      | .start, true => .ok .sqBegin
      | .oam, _ => .ok .sqXfer
      | .xfer, _ => .ok .sqHbl
      | .hbl, false => .ok .sqLine
      | .hbl, true => .ok .sqVbl
      | .vbl, false => .ok .sqVline
      | .vbl, true => .ok .sqEnd
      | .wait, _ => .error .resting := by
  cases p <;> cases c <;> decide

/-- The decoder reads the selection word the sequencer forms as R108 says. -/
theorem decode_selectionWord (s : State) :
    decode (.sel s.selectionWord) = match selected s with | some i => .ok i | none => .error .resting := by
  show decodeSel (encodeSel s.phase s.conditionBit) = _
  rw [decodeSel_encodeSel]
  unfold selected State.conditionBit
  cases s.phase <;> simp only []
  · by_cases h : s.regs.ly = 143
    · simp only [h, if_true]; rfl
    · simp only [Config.lastVisible, beq_eq_false_iff_ne.mpr h, if_neg h]
  · by_cases h : s.regs.ly = 153
    · simp only [h, if_true]; rfl
    · simp only [Config.lastLine, beq_eq_false_iff_ne.mpr h, if_neg h]
  · cases lcdEn s.regs.lcdc <;> rfl

/-- The sequencer's turn runs the selected step. -/
theorem step_selected {s : State} (hw : s.window = none) {i : Instr} (h : selected s = some i) :
    step s = exec i s := by
  have hp : s.phase ≠ .wait := by intro e; simp [selected, e] at h
  have : s.hostTurn = false := by simp [State.hostTurn, hw, hp]
  simp only [step, this, sequencerStep, execFetched, decode_selectionWord, h, Bool.false_eq_true, if_false]

theorem selected_ne_none {s : State} (h : s.phase ≠ .wait) : ∃ i, selected s = some i := by
  unfold selected
  cases hp : s.phase <;> simp_all

/-- A host word decodes to a host operation only. -/
theorem isHost_of_decodeHost {w : CommandWord} {d : List Byte} {i : Instr}
    (h : decode (.host w d) = .ok i) : i.isHost = true := by
  simp only [decode, decodeHost] at h
  split at h
  · cases h
  · next op _ =>
    split at h
    · split at h
      · next j hj =>
        have : j = i := by
          unfold checkBurst at h; split at h
          · exact Except.ok.inj h
          · cases h
        subst this
        cases op <;> simp only [readOperands, regOperand, flagRegOperand] at hj
        case init | rdmem | wrmem | ldoam | render | setirq => cases hj; rfl
        case rdreg | wrreg => split at hj <;> cases hj; rfl
        case setf | clrf =>
          split at hj
          · split at hj <;> cases hj; rfl
          · cases hj
      · cases h
    · cases h

/-- The positions at which a step that queries the tracker is selected (R108). -/
def Interrupted.SelectsAt (k : Interrupted) (s : State) : Prop :=
  match k with
  | .sqBegin => s.phase = .start ∧ lcdEn s.regs.lcdc = true
  | .sqXfer => s.phase = .oam
  | .sqHbl => s.phase = .xfer
  | .sqLine => s.phase = .hbl ∧ s.regs.ly ≠ 143
  | .sqVbl => s.phase = .hbl ∧ s.regs.ly = 143
  | .sqVline => s.phase = .vbl ∧ s.regs.ly ≠ 153

/-- A selected step is SQ_BLANK, SQ_END, or one of the six that query the tracker, at its position. -/
theorem selected_cases {s : State} {i : Instr} (h : selected s = some i) :
    (i = .sqBlank ∧ s.phase = .start ∧ lcdEn s.regs.lcdc = false) ∨
    (i = .sqEnd ∧ s.phase = .vbl ∧ s.regs.ly = 153) ∨
    ∃ k : Interrupted, i = k.instr ∧ k.SelectsAt s := by
  unfold selected at h
  split at h
  · cases h
  · next hp => 
    split at h <;> cases h
    · next hl => exact .inr (.inr ⟨.sqBegin, rfl, hp, hl⟩)
    · next hl => exact .inl ⟨rfl, hp, by simpa using hl⟩
  · next hp => cases h; exact .inr (.inr ⟨.sqXfer, rfl, hp⟩)
  · next hp => cases h; exact .inr (.inr ⟨.sqHbl, rfl, hp⟩)
  · next hp => 
    split at h <;> cases h
    · next hl => exact .inr (.inr ⟨.sqVbl, rfl, hp, hl⟩)
    · next hl => exact .inr (.inr ⟨.sqLine, rfl, hp, hl⟩)
  · next hp => 
    split at h <;> cases h
    · next hl => exact .inr (.inl ⟨rfl, hp, hl⟩)
    · next hl => exact .inr (.inr ⟨.sqVline, rfl, hp, hl⟩)

/-- What a step that queries the tracker ends in. -/
theorem exec_instr_cases (k : Interrupted) {s t : State} (hw : s.window = none)
    (h : exec k.instr s = .next t) :
    (k.delivered s = true ∧ t = queryPart k s) ∨
    (k.delivered s = false ∧ t = finishStep k (queryPart k s)) := by
  cases hd : k.delivered s
  · rw [exec_undelivered hw hd] at h; cases h; exact .inr ⟨rfl, rfl⟩
  · rw [exec_delivered hd] at h; cases h; exact .inl ⟨rfl, rfl⟩

theorem not_hostTurn {s : State} (h : s.hostTurn = false) : s.window = none ∧ s.phase ≠ .wait := by
  simpa [State.hostTurn, Option.isSome_iff_ne_none] using h

/-- A host operation that answers a next state is a read, or was made with no frame in progress. -/
theorem host_cases {i : Instr} {s t : State} (hh : i.isHost = true) (h : exec i s = .next t) :
    (s.window = none ∧ s.phase = .wait) ∨ ∃ r, t = { s with response := r } := by
  cases i <;> simp only [Instr.isHost, reduceCtorEq] at hh <;> simp only [exec] at h
  case init => obtain ⟨-, h1, h2, -⟩ := unattached_of_whenUnattached h; exact .inl ⟨h1, h2⟩
  case rdreg => obtain ⟨-, h⟩ := readable_of_whenReadable h; cases h; exact .inr ⟨_, rfl⟩
  case rdmem => obtain ⟨-, h⟩ := readable_of_whenReadable h; cases h; exact .inr ⟨_, rfl⟩
  case ldoam | setf | clrf =>
    simp only [execLdoam, execSetf, execClrf] at h; split at h
    · exact .inl (idle_of_whenIdle h).1.2
    · cases h
  all_goals exact .inl (idle_of_whenIdle h).1.2

/-- What one step can do when it answers a next state. -/
theorem step_cases {s t : State} (h : step s = .next t) :
    -- rest
    (s.hostTurn = true ∧ s.inbox = [] ∧ t = s) ∨
    -- a host operation
    (s.hostTurn = true ∧ ∃ w d rest i, s.inbox = .command w d :: rest ∧ decode (.host w d) = .ok i ∧
      i.isHost = true ∧ exec i { s with inbox := rest } = .next t) ∨
    -- the window closes
    (∃ k q, s.window = some k ∧ (s.inbox = .closeWindow :: q ∨ ∃ rest, s.inbox = q ∧ q = .awaitFrame :: rest) ∧
      t = finishStep k { s with inbox := q, window := none }) ∨
    -- the host has waited for a frame that is over
    (s.window = none ∧ s.phase = .wait ∧ ∃ rest, s.inbox = .awaitFrame :: rest ∧ t = { s with inbox := rest }) ∨
    -- the host offers a buffer
    (s.hostTurn = true ∧ s.attached = false ∧ ∃ n cs rest, s.inbox = .offerBuffer n cs :: rest ∧
      t = { s with inbox := rest, mem := Memory.ofCells cs [], bufSize := n }) ∨
    -- a sequencer step
    (s.window = none ∧ s.phase ≠ .wait ∧ ∃ i, selected s = some i ∧ exec i s = .next t) := by
  by_cases ht : s.hostTurn
  · simp only [step, ht, if_true, hostStep] at h
    split at h
    · next hin => exact .inl ⟨ht, hin, by cases h; rfl⟩
    · next a rest hin =>
      cases a with
      | command w d =>
        simp only [hostAct, execFetched] at h
        split at h
        · next i hd =>
          exact .inr (.inl ⟨ht, w, d, rest, i, hin, hd, isHost_of_decodeHost hd, h⟩)
        · cases h
      | closeWindow =>
        simp only [hostAct, resumeStep] at h
        split at h
        · next k hk => exact .inr (.inr (.inl ⟨k, rest, hk, .inl hin, by cases h; rfl⟩))
        · cases h
      | awaitFrame =>
        simp only [hostAct, awaitFrame, resumeStep] at h
        cases hk : s.window with
        | some k =>
          exact .inr (.inr (.inl ⟨k, _, rfl, .inr ⟨rest, hin, rfl⟩, by simp [hk] at h; exact h.symm⟩))
        | none =>
          refine .inr (.inr (.inr (.inl ⟨rfl, ?_, rest, hin, by simp [hk] at h; exact h.symm⟩)))
          simpa [State.hostTurn, hk] using ht
      | offerBuffer n cs =>
        simp only [hostAct, offerBuffer] at h
        split at h
        · cases h
        · next ha =>
          exact .inr (.inr (.inr (.inr (.inl ⟨ht, by simpa using ha, n, cs, rest, hin, by cases h; rfl⟩))))
  · have hw : s.window = none ∧ s.phase ≠ .wait := by
      simpa [State.hostTurn, Option.isSome_iff_ne_none] using ht
    obtain ⟨i, hi⟩ := selected_ne_none hw.2
    exact .inr (.inr (.inr (.inr (.inr ⟨hw.1, hw.2, i, hi, by rw [← step_selected hw.1 hi]; exact h⟩))))

end Sys2Proof.Machine
end

