-- ==== Sys2Proof/Laws/Frame.lean ====
section
/-! SUPPORT. A frame, step by step, with no sink installed: what one step keeps, then the three steps of a line, the
visible lines by induction, and the lines of VERTICAL_BLANK (R192, R202, R215). -/

namespace Sys2Proof.Machine

/-- With no sink the selected step runs to its end. -/
theorem step_unsunk {s : State} {k : Interrupted} (hw : s.window = none) (hs : s.sink = false)
    (h : selected s = some k.instr) :
    step s = .next (finishStep k (queryPart k s)) ∧ s.hostTurn = false := by
  have hd : k.delivered s = false := by simp [Interrupted.delivered, hs]
  refine ⟨(step_selected hw h).trans (exec_undelivered hw hd), ?_⟩
  have : s.phase ≠ .wait := by intro e; simp [selected, e] at h
  simp [State.hostTurn, hw, this]

/-- What a frame keeps of the state `s` it started in. -/
structure FrameOf (s u : State) : Prop where
  window : u.window = none
  regs   : ∀ r, r ≠ .ly → r ≠ .stat → u.regs.get r = s.regs.get r
  host   : hostBits u.regs.stat = hostBits s.regs.stat
  frame  : u = { s with regs := u.regs, phase := u.phase, armed := u.armed, sb := u.sb, fb := u.fb
                        irqTrace := u.irqTrace }

/-- Two states that agree on everything the engine does not own. -/
theorem eq_of_hostPart {a b : State} (h1 : a.cfg = b.cfg) (h2 : a.bufSize = b.bufSize)
    (h3 : a.attached = b.attached) (h4 : a.mem = b.mem) (h5 : a.sink = b.sink) (h6 : a.opal = b.opal)
    (h7 : a.window = b.window) (h8 : a.response = b.response) (h9 : a.inbox = b.inbox)
    (h10 : a.draws = b.draws) :
    a = { b with regs := a.regs, phase := a.phase, armed := a.armed, sb := a.sb, fb := a.fb
                 irqTrace := a.irqTrace } := by
  cases a; cases b; cases h1; cases h2; cases h3; cases h4; cases h5; cases h6; cases h7; cases h8; cases h9; cases h10; rfl

theorem FrameOf.next {s u : State} (h : FrameOf s u) (hs : s.sink = false) (k : Interrupted) :
    FrameOf s (finishStep k (queryPart k u)) ∧ u.sink = false := by
  have hsu : u.sink = false := by rw [h.frame]; exact hs
  have hd : k.delivered u = false := by simp [Interrupted.delivered, hsu]
  have q := queryPart_queried k u
  have w := queryPart_window k u
  rw [hd, h.window] at w
  have f := queryPart_frame k u
  have g := finishStep_frame k (queryPart k u)
  refine ⟨⟨?_, ?_, ?_, ?_⟩, hsu⟩
  · rw [finishStep_window]; exact w
  · intro r h1 h2; rw [finishStep_regs, q.2.2.2.2.1 r h1 h2, h.regs r h1 h2]
  · rw [finishStep_regs, q.2.2.2.1, h.host]
  · have w' : (queryPart k u).window = none := w
    have hf := h.frame
    have hw := h.frame ▸ h.window
    apply eq_of_hostPart
    · rw [finishStep_cfg, f, hf]
    · rw [g, f, hf]
    · rw [g, f, hf]
    · rw [g, f, hf]
    · rw [g, f, hf]
    · rw [g, f, hf]
    · rw [g]; exact w'.trans hw.symm
    · rw [g, f, hf]
    · rw [g, f, hf]
    · rw [g, f, hf]

theorem FrameOf.frameLine_eq {s u : State} (h : FrameOf s u) (l : Nat) :
    frameLine u l = frameLine s l := by
  have hf := h.frame
  exact frameLine_congr (by rw [hf]) (by rw [hf]) h.regs (by rw [hf]) l

theorem FrameOf.condAt_eq {s u : State} (h : FrameOf s u) (m : Mode) (ly : Byte) :
    condAt u.regs.stat u.regs.lyc m ly = condAt s.regs.stat s.regs.lyc m ly := by
  rw [condAt_congr h.host]; rw [show u.regs.lyc = s.regs.lyc from h.regs .lyc (by decide) (by decide)]

/-- The lines below `n` are drawn. -/
def Drawn (s u : State) (n : Nat) : Prop := ∀ (l : Nat) (h : l < 144), l < n → u.fb[l] = frameLine s l

/-- No step of the run is the host's. -/
def SequencerRun (s : State) (n : Nat) : Prop :=
  ∀ j < n, ∃ w, core.run j s = .next w ∧ State.hostTurn w = false

/-- What an entry appends to the trace. -/
theorem FrameOf.irqTrace_next (k : Interrupted) {s u : State} (h : FrameOf s u) (hs : s.sink = false)
    (hk : k.enters = true) : (finishStep k (queryPart k u)).irqTrace = u.irqTrace ++
      (if condAt s.regs.stat s.regs.lyc k.mode (k.line u) then
        [{ ly := k.line u, mode := k.mode, sink := false }] else []) := by
  have q := (queryPart_queried k u).2.2.2.2.2.2.2
  rw [finishStep_irqTrace, q]
  have hsu := (h.next hs k).2
  simp only [Interrupted.fires, hk, Bool.true_or, Bool.true_and, h.condAt_eq, hsu]

/-- SQ_XFER and SQ_HBL of line `n`. -/
theorem run_xfer_hbl {s u : State} (hS : FrameOf s u) (hs : s.sink = false) (n : Nat) (hn : n < 144)
    (hp : u.phase = .oam) (hly : u.regs.ly = BitVec.ofNat 8 n)
    (hsb : u.sb = scan s.mem n (objSize s.regs.lcdc)) (hd : Drawn s u n) :
    ∃ v, FrameOf s v ∧ v.phase = .hbl ∧ v.regs.ly = BitVec.ofNat 8 n ∧ Drawn s v (n + 1) ∧
      core.run 2 u = .next v ∧ SequencerRun u 2 ∧
      v.irqTrace = u.irqTrace ++
        (if condAt s.regs.stat s.regs.lyc .xfer (BitVec.ofNat 8 n) then
          [{ ly := BitVec.ofNat 8 n, mode := .xfer, sink := false }] else []) ++
        (if condAt s.regs.stat s.regs.lyc .hbl (BitVec.ofNat 8 n) then
          [{ ly := BitVec.ofNat 8 n, mode := .hbl, sink := false }] else []) := by
  have hnn : (BitVec.ofNat 8 n).toNat = n := by simp; omega
  obtain ⟨hS1, hsu⟩ := hS.next hs .sqXfer
  obtain ⟨e1, t1⟩ := step_unsunk (k := .sqXfer) hS.window hsu (by simp only [selected, hp]; rfl)
  have tr1 := FrameOf.irqTrace_next .sqXfer hS hs rfl
  have ly1 : (finishStep .sqXfer (queryPart .sqXfer u)).regs.ly = BitVec.ofNat 8 n := by
    rw [finishStep_regs, (queryPart_queried _ u).1]; exact hly
  have fb1 : (finishStep .sqXfer (queryPart .sqXfer u)).fb = u.fb.setIfInBounds n (frameLine s n) := by
    rw [finishStep_fb]; simp only []
    rw [(queryPart_queried .sqXfer u).1]
    have : (Interrupted.sqXfer.line u).toNat = n := by show u.regs.ly.toNat = n; rw [hly, hnn]
    have hf := hS.frame
    have hline : lineOf u n = frameLine s n := by
      unfold frameLine
      apply lineOf_congr
      · rw [hf]
      · rw [hf]
      · exact hS.regs
      · rw [hf]
      · exact hsb
    rw [this, lineOf_queryPart, show (queryPart .sqXfer u).fb = u.fb by rw [queryPart_frame], hline]
  have ph1 : (finishStep .sqXfer (queryPart .sqXfer u)).phase = .xfer := finishStep_phase ..
  generalize finishStep .sqXfer (queryPart .sqXfer u) = u1 at *
  obtain ⟨hS2, hsu1⟩ := hS1.next hs .sqHbl
  obtain ⟨e2, t2⟩ := step_unsunk (k := .sqHbl) hS1.window hsu1 (by simp only [selected, ph1]; rfl)
  have tr2 := FrameOf.irqTrace_next .sqHbl hS1 hs rfl
  have ly2 : (finishStep .sqHbl (queryPart .sqHbl u1)).regs.ly = BitVec.ofNat 8 n := by
    rw [finishStep_regs, (queryPart_queried _ u1).1]; exact ly1
  have fb2 : (finishStep .sqHbl (queryPart .sqHbl u1)).fb = u1.fb := by
    rw [finishStep_fb]; simp only []; rw [queryPart_frame]
  have ph2 : (finishStep .sqHbl (queryPart .sqHbl u1)).phase = .hbl := finishStep_phase ..
  refine ⟨_, hS2, ph2, ly2, ?_, ?_, ?_, ?_⟩
  · intro l hl hln
    have : (finishStep Interrupted.sqHbl (queryPart Interrupted.sqHbl u1)).fb[l] = (u.fb.setIfInBounds n (frameLine s n))[l] := by
      congr 1; rw [fb2, fb1]
    rw [this, Vector.getElem_setIfInBounds hl]
    split
    · next h => subst h; rfl
    · exact hd l hl (by omega)
  · rw [run_next e1, run_next e2]; rfl
  · intro j hj
    rcases j with _ | _ | j
    · exact ⟨u, rfl, t1⟩
    · exact ⟨u1, (run_next e1 0).trans rfl, t2⟩
    · omega
  · rw [tr2, tr1]
    have a : Interrupted.sqXfer.line u = BitVec.ofNat 8 n := hly
    have b : Interrupted.sqHbl.line u1 = BitVec.ofNat 8 n := ly1
    rw [a, b]; rfl

theorem SequencerRun.add {s t : State} {m n : Nat} (h1 : core.run m s = .next t) (h2 : SequencerRun s m)
    (h3 : SequencerRun t n) : SequencerRun s (m + n) := by
  intro j hj
  by_cases h : j < m
  · exact h2 j h
  · obtain ⟨w, hw, hw'⟩ := h3 (j - m) (by omega)
    refine ⟨w, ?_, hw'⟩
    have := run_add (n := j - m) h1
    rw [show m + (j - m) = j by omega] at this
    exact this.trans hw

theorem lineFirings_eq (st lyc : Byte) (n : Nat) : lineFirings st lyc false n =
    (if condAt st lyc .oam (BitVec.ofNat 8 n) then
      [{ ly := BitVec.ofNat 8 n, mode := .oam, sink := false }] else []) ++
    (if condAt st lyc .xfer (BitVec.ofNat 8 n) then
      [{ ly := BitVec.ofNat 8 n, mode := .xfer, sink := false }] else []) ++
    (if condAt st lyc .hbl (BitVec.ofNat 8 n) then
      [{ ly := BitVec.ofNat 8 n, mode := .hbl, sink := false }] else []) := by
  simp only [lineFirings, List.filter_cons, List.filter_nil]
  split <;> split <;> split <;> rfl

/-- The visible lines up to `n`: three steps each. -/
theorem run_lines {s : State} (hw : s.window = none) (hp : s.phase = .start)
    (hl : lcdEn s.regs.lcdc = true) (hs : s.sink = false) (n : Nat) (hn : n < 144) :
    ∃ v, FrameOf s v ∧ v.phase = .hbl ∧ v.regs.ly = BitVec.ofNat 8 n ∧ Drawn s v (n + 1) ∧
      core.run (3 * (n + 1)) s = .next v ∧ SequencerRun s (3 * (n + 1)) ∧
      v.irqTrace = s.irqTrace ++
        (List.range (n + 1)).flatMap (lineFirings s.regs.stat s.regs.lyc false) := by
  induction n with
  | zero =>
    have hS : FrameOf s s := ⟨hw, fun _ _ _ => rfl, rfl, rfl⟩
    obtain ⟨hS1, -⟩ := hS.next hs .sqBegin
    obtain ⟨e1, t1⟩ := step_unsunk (k := .sqBegin) hw hs (by simp only [selected, hp, hl]; rfl)
    have tr1 := FrameOf.irqTrace_next .sqBegin hS hs rfl
    have ly1 : (finishStep .sqBegin (queryPart .sqBegin s)).regs.ly = BitVec.ofNat 8 0 := by
      rw [finishStep_regs, (queryPart_queried _ s).1]; rfl
    have sb1 : (finishStep .sqBegin (queryPart .sqBegin s)).sb = scan s.mem 0 (objSize s.regs.lcdc) := by
      rw [finishStep_sb]; simp only []
      rw [show (queryPart .sqBegin s).regs.lcdc = s.regs.lcdc from (queryPart_queried .sqBegin s).2.2.2.2.1 .lcdc (by decide) (by decide), queryPart_frame]
    have ph1 : (finishStep .sqBegin (queryPart .sqBegin s)).phase = .oam := finishStep_phase ..
    generalize finishStep .sqBegin (queryPart .sqBegin s) = u1 at *
    obtain ⟨v, a, b, c, d, e, f, g⟩ := run_xfer_hbl hS1 hs 0 hn ph1 ly1 sb1 (fun l h h' => by omega)
    have r1 : core.run 1 s = .next u1 := (run_next e1 0).trans rfl
    refine ⟨v, a, b, c, d, (run_add r1).trans e, (SequencerRun.add r1 (fun j hj => ?_) f : SequencerRun s (1 + 2)), ?_⟩
    · have : j = 0 := by omega
      subst this; exact ⟨s, rfl, t1⟩
    · rw [g, tr1]; simp [lineFirings_eq]; rfl
  | succ n ih =>
    obtain ⟨u, hS, hpu, hly, hdr, hrun, hturn, htr⟩ := ih (by omega)
    obtain ⟨hS1, hsu⟩ := hS.next hs .sqLine
    obtain ⟨e1, t1⟩ := step_unsunk (k := .sqLine) hS.window hsu (by
      have : u.regs.ly ≠ 143 := by
        rw [hly]; intro h; have := congrArg BitVec.toNat h; simp at this; omega
      simp only [selected, hpu, if_neg this]; rfl)
    have tr1 := FrameOf.irqTrace_next .sqLine hS hs rfl
    have lnn : Interrupted.sqLine.line u = BitVec.ofNat 8 (n+1) := by
      show u.regs.ly + 1 = _; rw [hly]; exact (BitVec.ofNat_add n 1).symm
    have ly1 : (finishStep .sqLine (queryPart .sqLine u)).regs.ly = BitVec.ofNat 8 (n+1) := by
      rw [finishStep_regs, (queryPart_queried _ u).1, lnn]
    have sb1 : (finishStep .sqLine (queryPart .sqLine u)).sb = scan s.mem (n+1) (objSize s.regs.lcdc) := by
      rw [finishStep_sb]; simp only []
      rw [show (queryPart .sqLine u).regs.lcdc = u.regs.lcdc from
        (queryPart_queried .sqLine u).2.2.2.2.1 .lcdc (by decide) (by decide), (queryPart_queried _ u).1, lnn,
        show (queryPart .sqLine u).mem = u.mem by rw [queryPart_frame]]
      rw [show u.regs.lcdc = s.regs.lcdc from hS.regs .lcdc (by decide) (by decide),
        show u.mem = s.mem by rw [hS.frame]]
      congr 1; simp; omega
    have ph1 : (finishStep .sqLine (queryPart .sqLine u)).phase = .oam := finishStep_phase ..
    have fb1 : (finishStep .sqLine (queryPart .sqLine u)).fb = u.fb := by
      rw [finishStep_fb]; simp only []; rw [queryPart_frame]
    generalize finishStep .sqLine (queryPart .sqLine u) = u1 at *
    obtain ⟨v, a, b, c, d, e, f, g⟩ := run_xfer_hbl hS1 hs (n+1) hn ph1 ly1 sb1 (by unfold Drawn; rw [fb1]; exact hdr)
    have r1 : core.run 1 u = .next u1 := (run_next e1 0).trans rfl
    have r3 : core.run 3 u = .next v := (run_add r1).trans e
    have t3 : SequencerRun u 3 := SequencerRun.add r1 (fun j hj => by
      have : j = 0 := by omega
      subst this; exact ⟨u, rfl, t1⟩) f
    refine ⟨v, a, b, c, d, ?_, ?_, ?_⟩
    · rw [show 3 * (n + 1 + 1) = 3 * (n+1) + 3 by omega]; exact (run_add hrun).trans r3
    · rw [show 3 * (n + 1 + 1) = 3 * (n+1) + 3 by omega]; exact SequencerRun.add hrun hturn t3
    · rw [g, tr1, htr, List.range_succ (n := n+1), List.flatMap_append]
      simp only [List.flatMap_cons, List.flatMap_nil, List.append_nil, lineFirings_eq, lnn, List.append_assoc]; rfl

/-- `n` polls after line 144: at most one of them fires, and only if none has fired before (R200, R215). -/
theorem run_polls {s : State} (hs : s.sink = false) (n : Nat) (hn : n ≤ 9) : ∀ u : State, FrameOf s u →
    u.phase = .vbl → u.regs.ly = 144 → modeField u.regs.stat = 1 →
    ∃ v, FrameOf s v ∧ v.phase = .vbl ∧ v.regs.ly = BitVec.ofNat 8 (144 + n) ∧ v.fb = u.fb ∧
      modeField v.regs.stat = 1 ∧ (n ≠ 0 → matchFlag v.regs.stat = (v.regs.ly == s.regs.lyc)) ∧
      core.run n u = .next v ∧ SequencerRun u n ∧
      v.irqTrace = u.irqTrace ++ (if u.armed.vbl then
        (((List.range n).map (· + 145)).find?
          fun n => condAt s.regs.stat s.regs.lyc .vbl (BitVec.ofNat 8 n)).toList.map
            fun n => ({ ly := BitVec.ofNat 8 n, mode := .vbl, sink := false } : TraceEntry) else []) ∧
      v.armed.vbl = (u.armed.vbl && !((List.range n).map (· + 145)).any
        fun n => condAt s.regs.stat s.regs.lyc .vbl (BitVec.ofNat 8 n)) := by
  induction n with
  | zero => intro u h1 h2 h3 h4; exact ⟨u, h1, h2, h3, rfl, h4, fun h => absurd rfl h, rfl, nofun, by simp, by simp⟩
  | succ n ih =>
    intro u h1 h2 h3 h4
    obtain ⟨v, hS, hp, hly, hfb, hm, -, hr, ht, htr, har⟩ := ih (by omega) u h1 h2 h3 h4
    obtain ⟨hS1, hsu⟩ := hS.next hs .sqVline
    obtain ⟨e1, t1⟩ := step_unsunk (k := .sqVline) hS.window hsu (by
      have : v.regs.ly ≠ 153 := by
        rw [hly]; intro h; have := congrArg BitVec.toNat h; simp at this; omega
      simp only [selected, hp, if_neg this]; rfl)
    have q := queryPart_queried .sqVline v
    have lnn : Interrupted.sqVline.line v = BitVec.ofNat 8 (144 + (n+1)) := by
      show v.regs.ly + 1 = _; rw [hly]; exact (BitVec.ofNat_add (144 + n) 1).symm
    have r1 : core.run 1 v = .next (finishStep .sqVline (queryPart .sqVline v)) := (run_next e1 0).trans rfl
    have hfires : Interrupted.fires .sqVline v = (v.armed.vbl && condAt s.regs.stat s.regs.lyc .vbl (BitVec.ofNat 8 (n + 145))) := by
      simp only [Interrupted.fires, lnn, hS.condAt_eq, show 144 + (n+1) = n + 145 by omega]; rfl
    refine ⟨_, hS1, ?_, ?_, ?_, ?_, ?_, (run_add hr).trans r1, SequencerRun.add hr ht (fun j hj => ?_), ?_, ?_⟩
    · rw [finishStep_phase]; simp only []; rw [queryPart_frame]; exact hp
    · rw [finishStep_regs, q.1, lnn]
    · rw [finishStep_fb]; simp only []; rw [queryPart_frame]; exact hfb
    · rw [finishStep_regs, q.2.1]; exact hm
    · intro _; rw [finishStep_regs, q.2.2.1, q.1, show v.regs.lyc = s.regs.lyc from hS.regs .lyc (by decide) (by decide)]
    · have : j = 0 := by omega
      subst this; exact ⟨v, rfl, t1⟩
    · rw [finishStep_irqTrace, q.2.2.2.2.2.2.2, htr, hfires, har, List.range_succ, List.map_append, List.find?_append, hsu, lnn]
      cases u.armed.vbl
      · simp
      · simp only [Bool.true_and, if_true, List.append_assoc]
        congr 1
        cases hf : List.find? (fun n => condAt s.regs.stat s.regs.lyc Mode.vbl (BitVec.ofNat 8 n)) (List.map (fun x => x + 145) (List.range n)) with
        | none =>
          have : (List.map (fun x => x + 145) (List.range n)).any (fun n => condAt s.regs.stat s.regs.lyc Mode.vbl (BitVec.ofNat 8 n)) = false := by
            rw [List.find?_eq_none] at hf
            rw [List.any_eq_false]; exact hf
          rw [this]
          simp only [Bool.not_false, Bool.true_and, Option.none_or, List.map_cons, List.map_nil, List.find?_cons, List.find?_nil]
          cases condAt s.regs.stat s.regs.lyc Mode.vbl (BitVec.ofNat 8 (n + 145)) <;> simp [Interrupted.mode, Nat.add_comm]
        | some x =>
          have : (List.map (fun x => x + 145) (List.range n)).any (fun n => condAt s.regs.stat s.regs.lyc Mode.vbl (BitVec.ofNat 8 n)) = true := by
            rw [List.any_eq_true]
            exact ⟨x, List.mem_of_find?_eq_some hf, List.find?_some (p := fun n => condAt s.regs.stat s.regs.lyc Mode.vbl (BitVec.ofNat 8 n)) hf⟩
          rw [this]; simp
    · rw [finishStep_armed]
      have := q.2.2.2.2.2.1
      rw [hfires] at this
      have this : (queryPart .sqVline v).armed.vbl = (v.armed.vbl && !(v.armed.vbl && condAt s.regs.stat s.regs.lyc .vbl (BitVec.ofNat 8 (n + 145)))) := this
      rw [this, har, List.range_succ, List.map_append, List.any_append]
      simp only [List.map_cons, List.map_nil, List.any_cons, List.any_nil]
      cases u.armed.vbl <;> cases (List.map (fun x => x + 145) (List.range n)).any _ <;> simp

/-- With no sink, no window and nothing from the host, every run goes on. -/
theorem run_quiet (n : Nat) : ∀ {s : State}, s.window = none → s.sink = false → s.inbox = [] →
    ∃ t, core.run n s = .next t := by
  induction n with
  | zero => intro s _ _ _; exact ⟨s, rfl⟩
  | succ n ih =>
    intro s hw hs hin
    cases hp : selected s with
    | none =>
      have hph : s.phase = .wait := by
        by_contra h; obtain ⟨i, hi⟩ := selected_ne_none h; simp [hp] at hi
      have e : step s = .next s := by simp [step, State.hostTurn, hph, hostStep, hin]
      rw [run_next e]; exact ih hw hs hin
    | some i =>
      rcases selected_cases hp with ⟨rfl, -⟩ | ⟨rfl, -⟩ | ⟨k, rfl, -⟩
      · rw [run_next ((step_selected hw hp).trans rfl)]; exact ih hw hs hin
      · rw [run_next ((step_selected hw hp).trans rfl)]; exact ih hw hs hin
      · have h0 : FrameOf s s := ⟨hw, fun _ _ _ => rfl, rfl, rfl⟩
        obtain ⟨h1, -⟩ := h0.next hs k
        rw [run_next (step_unsunk hw hs hp).1]
        exact ih h1.window (by rw [h1.frame]; exact hs) (by rw [h1.frame]; exact hin)

end Sys2Proof.Machine
end

