-- ==== Sys2Proof/Laws/PerInstr.lean ====
section
/-! SUPPORT. What holds of every operation as syntax, one lemma per constructor (LAWS.json). -/

namespace Sys2Proof

/-- A word that a row accepts carries the row's opcode byte. -/
theorem fieldOp_of_accepts {op : HostOp} {w : CommandWord} (h : op.accepts w = true) :
    fieldOp w = op.opcode := by
  have hm : w &&& op.mask = hostWord op 0 := eq_of_beq h
  have h8 : ∀ b : Byte, b &&& 0xFF#8 = b := by decide +kernel
  have hf : fieldOp op.mask = 0xFF#8 := by cases op <;> decide
  have ha : fieldOp (w &&& op.mask) = fieldOp w &&& fieldOp op.mask := BitVec.extractLsb'_and
  rw [hf, h8, hm, fieldOp_hostWord] at ha
  exact ha.symm

/-- The row that accepts a word is the only one that does: no two rows of the table overlap (R104). -/
theorem accepts_unique {a b : HostOp} {w : CommandWord} (ha : a.accepts w = true) (hb : b.accepts w = true) :
    a = b :=
  opcode_inj ((fieldOp_of_accepts ha).symm.trans (fieldOp_of_accepts hb))

namespace Laws.RowAccepts

/-- A well-formed host operation's word is accepted by exactly one row of the table and its burst has the length the
opcode fixes; a sequencer step's word is the selection R108 gives it (R104, R116, R108). -/
def Statement (i : Instr) : Prop :=
  i.wf = true →
    match encode i with
    | .host w d => i.isHost = true ∧ (∃ op, ∀ op' : HostOp, op'.accepts w = true ↔ op' = op) ∧
        d.length = i.burstLength
    | .sel w => i.isHost = false ∧ decodeSel w = .ok i

theorem row_of {op : HostOp} {p : BitVec 32} (h : p &&& op.payloadMask = 0) :
    ∃ op₀, ∀ op' : HostOp, op'.accepts (hostWord op p) = true ↔ op' = op₀ := by
  have ha : op.accepts (hostWord op p) = true :=
    (accepts_hostWord op p).trans (by rw [h]; exact beq_self_eq_true _)
  exact ⟨op, fun op' => ⟨fun h' => accepts_unique h' ha, fun e => by rw [e]; exact ha⟩⟩

theorem init : Statement .init := fun _ => ⟨rfl, row_of (by decide), rfl⟩
theorem rdreg (r : Reg) : Statement (.rdreg r) := fun _ => ⟨rfl, row_of (by cases r <;> decide), rfl⟩
theorem wrreg (r : Reg) (v : Byte) : Statement (.wrreg r v) := fun _ => ⟨rfl, row_of (payloadHR_clear r v), rfl⟩
theorem setf (r : Reg) (m : Byte) : Statement (.setf r m) := fun _ => ⟨rfl, row_of (payloadHR_clear r m), rfl⟩
theorem clrf (r : Reg) (m : Byte) : Statement (.clrf r m) := fun _ => ⟨rfl, row_of (payloadHR_clear r m), rfl⟩
theorem rdmem (a : Addr) : Statement (.rdmem a) := fun _ => ⟨rfl, row_of (payloadHM_clear_read a), rfl⟩
theorem wrmem (a : Addr) (v : Byte) : Statement (.wrmem a v) := fun _ => ⟨rfl, row_of (payloadHM_clear a v), rfl⟩
theorem ldoam (d : List Byte) : Statement (.ldoam d) :=
  fun h => ⟨rfl, row_of (by decide), of_decide_eq_true h⟩
theorem render (c0 c1 c2 c3 : Byte) : Statement (.render c0 c1 c2 c3) :=
  fun _ => ⟨rfl, row_of (show _ &&& 0#32 = 0 from BitVec.and_zero), rfl⟩
theorem setirq (e : Bool) : Statement (.setirq e) := fun _ => ⟨rfl, row_of (by cases e <;> decide), rfl⟩
theorem sqBlank : Statement .sqBlank := fun _ => ⟨rfl, rfl⟩
theorem sqBegin : Statement .sqBegin := fun _ => ⟨rfl, rfl⟩
theorem sqXfer : Statement .sqXfer := fun _ => ⟨rfl, rfl⟩
theorem sqHbl : Statement .sqHbl := fun _ => ⟨rfl, rfl⟩
theorem sqLine : Statement .sqLine := fun _ => ⟨rfl, rfl⟩
theorem sqVbl : Statement .sqVbl := fun _ => ⟨rfl, rfl⟩
theorem sqVline : Statement .sqVline := fun _ => ⟨rfl, rfl⟩
theorem sqEnd : Statement .sqEnd := fun _ => ⟨rfl, rfl⟩

end Laws.RowAccepts

end Sys2Proof
end

