-- ==== Sys2Proof/Machine/Assembler.lean ====
section
/-! DEFINITION. The textual syntax of host programs (R117) and the pseudo-operations (R118): from the characters of a
program to the host's actions. Sequencer steps are not written in programs, they follow from RENDER. -/

namespace Sys2Proof.Machine

/-! ### Characters -/

/-- The pieces between the separators. -/
def asmSplit (sep : Char) : List Char → List (List Char)
  | [] => [[]]
  | x :: xs =>
    if x = sep then [] :: asmSplit sep xs
    else
      match asmSplit sep xs with
      | [] => [[x]]
      | w :: ws => (x :: w) :: ws

/-- White space inside a line. -/
def asmBlank (c : Char) : Bool := c == ' ' || c == '\t' || c == '\r'

/-- Without white space at either end. -/
def asmTrim (cs : List Char) : List Char :=
  ((cs.dropWhile asmBlank).reverse.dropWhile asmBlank).reverse

/-- The value of a digit in a base. -/
def asmDigit (base : Nat) (c : Char) : Option Nat :=
  let n := c.toNat
  let v := if 48 ≤ n ∧ n ≤ 57 then n - 48 else if 97 ≤ n ∧ n ≤ 102 then n - 87
    else if 65 ≤ n ∧ n ≤ 70 then n - 55 else base
  if v < base then some v else none

/-- Digits to a number, most significant first. -/
def asmDigits (base : Nat) : Nat → List Char → Option Nat
  | acc, [] => some acc
  | acc, c :: cs =>
    match asmDigit base c with
    | some v => asmDigits base (acc * base + v) cs
    | none => none

/-- A number in decimal, `0x` hexadecimal or `0b` binary (R117). -/
def asmNumber : List Char → Option Nat
  | [] => none
  | ['0', 'x'] | ['0', 'b'] => none
  | '0' :: 'x' :: ds => asmDigits 16 0 ds
  | '0' :: 'b' :: ds => asmDigits 2 0 ds
  | ds => asmDigits 10 0 ds

/-! ### Operands -/

/-- The names of the registers (R30). -/
def asmRegNames : List (List Char × Reg) :=
  [("LCDC".toList, .lcdc), ("STAT".toList, .stat), ("SCY".toList, .scy), ("SCX".toList, .scx),
   ("LY".toList, .ly), ("LYC".toList, .lyc), ("BGP".toList, .bgp), ("OBP0".toList, .obp0),
   ("OBP1".toList, .obp1), ("WY".toList, .wy), ("WX".toList, .wx)]

/-- The flag names of LCDC and STAT and their masks (R33, R36). -/
def asmFlagNames : List (List Char × Byte) :=
  [("LCD_EN".toList, 0x80), ("WIN_MAP".toList, 0x40), ("WIN_EN".toList, 0x20), ("TILE_DATA".toList, 0x10),
   ("BG_MAP".toList, 0x08), ("OBJ_SIZE".toList, 0x04), ("OBJ_EN".toList, 0x02), ("BG_EN".toList, 0x01),
   ("IE_LYC".toList, 0x40), ("IE_OAM".toList, 0x20), ("IE_VBL".toList, 0x10), ("IE_HBL".toList, 0x08),
   ("MATCH".toList, 0x04), ("MODE".toList, 0x03)]

/-- A register by its name or its number (R117). A number that names no register (6, 12 to 15, above 15) gives no
program, though vector H9 writes `RDREG 6` for the word 0x0200000600, which is refused when it is presented:
R117 speaks of a register's number only (DESIGN CHOICE, log 18). -/
def asmReg (cs : List Char) : Option Reg :=
  match asmRegNames.lookup cs with
  | some r => some r
  | none =>
    match asmNumber cs with
    | some n => if n < 16 then Reg.ofNumber (BitVec.ofNat 4 n) else none
    | none => none

/-- A byte; a larger number gives no program (DESIGN CHOICE, log 18). -/
def asmByte (cs : List Char) : Option Byte :=
  match asmNumber cs with
  | some n => if n < 256 then some (BitVec.ofNat 8 n) else none
  | none => none

/-- An address; a larger number gives no program (DESIGN CHOICE, log 18). -/
def asmAddr (cs : List Char) : Option Addr :=
  match asmNumber cs with
  | some n => if n < 65536 then some (BitVec.ofNat 16 n) else none
  | none => none

/-- A mask: a number, or flag names joined by `|`. -/
def asmMask (cs : List Char) : Option Byte :=
  match asmByte cs with
  | some v => some v
  | none => ((asmSplit '|' cs).mapM fun n => asmFlagNames.lookup (asmTrim n)).map
      fun ms => ms.foldl (· ||| ·) 0

/-! ### Lines -/

/-- What one line says. -/
inductive AsmItem where
  /-- Operations, none for an empty line or a comment. -/
  | ops (is : List Instr)
  /-- LDOAM, whose burst the `.obj` lines after it give. -/
  | ldoam
  /-- `n` identical records. -/
  | records (bytes : List Byte) (n : Nat)
deriving DecidableEq, Repr

/-- One WRMEM for each byte, at consecutive addresses (R118). The sums are integers and do not wrap (R12); a
run of bytes that would leave the 64 KiB gives no program, which is the model's choice: R118 does not say what
such a line is (DESIGN CHOICE, log 21). -/
def asmWrites (a : Nat) (bytes : List Byte) : Option (List Instr) :=
  if a + bytes.length ≤ Config.memSize then
    some (bytes.zipIdx.map fun p => .wrmem (BitVec.ofNat 16 (a + p.2)) p.1)
  else none

/-- WRTILE: sixteen WRMEM of a tile (R118; log 21 where it would leave the 64 KiB). -/
def asmWrtile (a : Addr) (bytes : List Byte) : Option (List Instr) := asmWrites a.toNat bytes

/-- WROBJ: four WRMEM of one object record (R118). -/
def asmWrobj (i : Nat) (bytes : List Byte) : Option (List Instr) :=
  asmWrites (Config.offOam + Config.oamRec * i) bytes

/-- The operation of a mnemonic and its operands: the host operations of R103 and the pseudo-operations
of R118. FRAME is RENDER; the sequencer steps it adds follow from it, and `presentOf` adds the wait for them
to RENDER and FRAME alike (R106, R117; log 22). -/
def asmOperation (mnemonic : List Char) (args : List (List Char)) : Option AsmItem := do
  let bytes := args.mapM asmByte
  if mnemonic = "INIT".toList ∧ args = [] then return .ops [.init]
  else if mnemonic = "LDOAM".toList ∧ args = [] then return .ldoam
  else if mnemonic = "RDMODE".toList ∧ args = [] then return .ops [.rdreg .stat]
  else if mnemonic = "RDMATCH".toList ∧ args = [] then return .ops [.rdreg .stat]
  else if mnemonic = "LCDON".toList ∧ args = [] then return .ops [.setf .lcdc 0x80]
  else if mnemonic = "LCDOFF".toList ∧ args = [] then return .ops [.clrf .lcdc 0x80]
  else if mnemonic = "IRQON".toList ∧ args = [] then return .ops [.setirq true]
  else if mnemonic = "IRQOFF".toList ∧ args = [] then return .ops [.setirq false]
  else if mnemonic = "RENDER".toList ∨ mnemonic = "FRAME".toList then
    match ← bytes with
    | [c0, c1, c2, c3] => return .ops [.render c0 c1 c2 c3]
    | _ => none
  else
    match args with
    | [] => none
    | x :: rest =>
      if mnemonic = "RDREG".toList ∧ rest = [] then return .ops [.rdreg (← asmReg x)]
      else if mnemonic = "RDMEM".toList ∧ rest = [] then return .ops [.rdmem (← asmAddr x)]
      else if mnemonic = "SETIRQ".toList ∧ rest = [] then
        let e ← asmByte x
        if e = 0 then return .ops [.setirq false] else if e = 1 then return .ops [.setirq true] else none
      else if mnemonic = "WRTILE".toList ∧ rest.length = 16 then
        return .ops (← asmWrtile (← asmAddr x) (← rest.mapM asmByte))
      else if mnemonic = "WROBJ".toList ∧ rest.length = 4 then
        let i ← asmNumber x
        if i < 40 then return .ops (← asmWrobj i (← rest.mapM asmByte)) else none
      else
        match rest with
        | [y] =>
          if mnemonic = "WRREG".toList then return .ops [.wrreg (← asmReg x) (← asmByte y)]
          else if mnemonic = "SETF".toList then return .ops [.setf (← asmReg x) (← asmMask y)]
          else if mnemonic = "CLRF".toList then return .ops [.clrf (← asmReg x) (← asmMask y)]
          else if mnemonic = "WRMEM".toList then return .ops [.wrmem (← asmAddr x) (← asmByte y)]
          else none
        | _ => none

/-- The operands of a line, separated by commas. -/
def asmOperands (cs : List Char) : List (List Char) :=
  if asmTrim cs = [] then [] else (asmSplit ',' cs).map asmTrim

/-- `.obj y, x, tile, flags`, with `* n` for n identical records (R117). -/
def asmObject (cs : List Char) : Option AsmItem :=
  match asmSplit '*' cs with
  | [body] => do
    let bs ← (asmOperands body).mapM asmByte
    if bs.length = Config.oamRec then return .records bs 1 else none
  | [body, count] => do
    let bs ← (asmOperands body).mapM asmByte
    let n ← asmNumber (asmTrim count)
    if bs.length = Config.oamRec then return .records bs n else none
  | _ => none

/-- One line; `;` starts a comment (R117). -/
def asmLine (line : List Char) : Option AsmItem :=
  let cs := asmTrim (line.takeWhile (· != ';'))
  let word := cs.takeWhile fun c => !asmBlank c
  let rest := cs.dropWhile fun c => !asmBlank c
  if word = [] then some (.ops [])
  else if word = ".obj".toList then asmObject rest
  else asmOperation word (asmOperands rest)

/-! ### Programs -/

/-- What the host of a program text does after an operation: RENDER returns when the frame is over (R106), so
the line after it waits for that. A text has no line for the end of a callback; its callback ends at once
(DESIGN CHOICE, log 22). -/
def afterOf : Instr → List HostInput
  | .render _ _ _ _ => [.awaitFrame]
  | .init | .rdreg _ | .wrreg _ _ | .setf _ _ | .clrf _ _ | .rdmem _ | .wrmem _ _ | .ldoam _ | .setirq _
  | .sqBlank | .sqBegin | .sqXfer | .sqHbl | .sqLine | .sqVbl | .sqVline | .sqEnd => []

/-- The host actions of an operation: present its word, and for RENDER wait for the frame (log 22). -/
def presentOf (i : Instr) : List HostInput :=
  match encode i with
  | .host w d => .command w d :: afterOf i
  | .sel _ => []

/-- The records still waiting for the LDOAM above them, and the actions below. -/
def asmFold (item : AsmItem) (acc : Option (List Byte × List HostInput)) :
    Option (List Byte × List HostInput) :=
  match acc with
  | none => none
  | some (pending, actions) =>
    match item with
    | .records bs n => some ((List.replicate n bs).flatten ++ pending, actions)
    | .ldoam =>
      if pending.length = Config.oamBytes then some ([], presentOf (.ldoam pending) ++ actions) else none
    | .ops is => if pending = [] ∨ is = [] then some (pending, is.flatMap presentOf ++ actions) else none

/-- A program: one operation a line; the records after an LDOAM must total exactly 40 (R117). With a sink, the
callbacks of a frame end at once (log 22). -/
def assemble (text : List Char) : Option (List HostInput) := do
  let items ← (asmSplit '\n' text).mapM asmLine
  match items.foldr asmFold (some ([], [])) with
  | some ([], actions) => return actions
  | _ => none

/-- A command word written as ten hexadecimal digits (R117). -/
def wordDigits (w : CommandWord) : List Nat :=
  (List.range 10).map fun k => (w.extractLsb' (4 * (9 - k)) 4).toNat

/-- The result of RDMODE: bits 1:0 of the byte RDREG STAT returned (R118). -/
def rdmodeResult : Response → Option TwoBit
  | .byte v => some (modeField v)
  | .initDone | .error _ _ => none

/-- The result of RDMATCH: bit 2 of the byte RDREG STAT returned (R118). -/
def rdmatchResult : Response → Option Bool
  | .byte v => some (matchFlag v)
  | .initDone | .error _ _ => none

end Sys2Proof.Machine
end

