-- ==== Sys2Proof/Tests/Slice0.lean ====
section
/-! SUPPORT. Tests of the model: words from the encoding tables of spec/30_encoding.md, vectors of
spec/95_test_vectors.md (named H, D, K, C, T and P there), and for every statement with hypotheses a witness that
meets them. -/

namespace Sys2Proof.Tests

open Sys2Proof Sys2Proof.Machine

/-! ### Helpers -/

/-- The next state, if there is one. -/
def next? : Host.Outcome State Fault Refusal → Option State
  | .next t => some t
  | .fault _ | .refused _ => none

/-- The refusal, if it is one. -/
def refusal? : Host.Outcome State Fault Refusal → Option Refusal
  | .refused r => some r
  | .next _ | .fault _ => none

/-- The registers after. -/
def regs? (o : Host.Outcome State Fault Refusal) (r : Reg) : Option Byte := (next? o).map fun t => t.regs.get r

/-- The firings of a step as (LY, mode code, sink). -/
def trace? (o : Host.Outcome State Fault Refusal) : Option (List (Nat × Nat × Bool)) :=
  (next? o).map fun t => t.irqTrace.map fun e => (e.ly.toNat, (modeCode e.mode).toNat, e.sink)

/-- An attached instance at rest. -/
def idle : State := { State.reset with attached := true }

/-- A sequencer position of an attached instance, with these LCDC, STAT, LY and LYC. -/
def at' (p : Phase) (lcdc stat ly lyc : Byte) : State :=
  { ((((idle.setReg .lcdc lcdc).setReg .stat stat).setReg .ly ly).setReg .lyc lyc) with phase := p }

/-- Inside the OAM_SEARCH notification window of line 7 (H19 to H21). -/
def window7 : State :=
  { at' .hbl 0x80 0x22 7 0 with window := some .sqLine, sink := true }

/-- A memory of consecutive bytes at these addresses. -/
def memOf (ps : List (Nat × List Byte)) : Memory := ps.foldl (fun m p => m.writeBytes p.1 p.2) []

/-- Object records of y and the other three bytes, from record 0 on. -/
def objects (rs : List (List Byte)) : Memory := memOf [(0xFE00, rs.flatten)]

/-! ### WellFormed: each check refuses an ill-formed term -/

theorem test_wf_setf_refuses_scx : (Instr.setf .scx 1).wf = false := by decide
theorem test_wf_clrf_refuses_ly : (Instr.clrf .ly 1).wf = false := by decide
theorem test_wf_ldoam_refuses_159 : (Instr.ldoam (List.replicate 159 0)).wf = false := by decide +kernel
theorem test_wf_accepts : (Instr.setf .stat 0xFF).wf = true ∧ (Instr.clrf .lcdc 0).wf = true ∧
    (Instr.ldoam (List.replicate 160 0)).wf = true := by decide +kernel

/-! ### Decoding: words written out from R102 to R108 (and the words of P1 to P4) -/

theorem test_decode_init : decode (.host 0x0100000000 []) = .ok .init := by decide
theorem test_decode_rdreg : decode (.host 0x0200000100 []) = .ok (.rdreg .stat) := by decide
theorem test_decode_wrreg : decode (.host 0x0300000B57 []) = .ok (.wrreg .wx 87) := by decide
theorem test_decode_setf : decode (.host 0x0400000080 []) = .ok (.setf .lcdc 0x80) := by decide
theorem test_decode_clrf : decode (.host 0x0500000178 []) = .ok (.clrf .stat 0x78) := by decide
theorem test_decode_rdmem : decode (.host 0x0600980000 []) = .ok (.rdmem 0x9800) := by decide
theorem test_decode_wrmem : decode (.host 0x07009BFF01 []) = .ok (.wrmem 0x9BFF 0x01) := by decide
theorem test_decode_ldoam : decode (.host 0x0800000000 (List.replicate 160 7)) =
    .ok (.ldoam (List.replicate 160 7)) := by decide +kernel
theorem test_decode_render : decode (.host 0x09FFAA5500 []) = .ok (.render 0x00 0x55 0xAA 0xFF) := by decide
theorem test_decode_setirq : decode (.host 0x0A00000000 []) = .ok (.setirq false) ∧
    decode (.host 0x0A00000001 []) = .ok (.setirq true) := by decide
/-- The register numbers of R30. -/
theorem test_decode_registers : (List.range 16).map (fun n => Reg.ofNumber (BitVec.ofNat 4 n)) =
    [some .lcdc, some .stat, some .scy, some .scx, some .ly, some .lyc, none, some .bgp, some .obp0,
     some .obp1, some .wy, some .wx, none, none, none, none] := by decide
/-- The selection map of R108: all sixteen words. -/
theorem test_decode_selection :
    decode (.sel 0b0000) = .ok .sqLine ∧ decode (.sel 0b0001) = .ok .sqVbl ∧
    decode (.sel 0b0010) = .ok .sqVline ∧ decode (.sel 0b0011) = .ok .sqEnd ∧
    decode (.sel 0b0100) = .ok .sqXfer ∧ decode (.sel 0b0101) = .ok .sqXfer ∧
    decode (.sel 0b0110) = .ok .sqHbl ∧ decode (.sel 0b0111) = .ok .sqHbl ∧
    decode (.sel 0b1000) = .error .resting ∧ decode (.sel 0b1001) = .error .resting ∧
    decode (.sel 0b1010) = .ok .sqBlank ∧ decode (.sel 0b1011) = .ok .sqBegin ∧
    decode (.sel 0b1100) = .error .reservedEncoding ∧ decode (.sel 0b1101) = .error .reservedEncoding ∧
    decode (.sel 0b1110) = .error .reservedEncoding ∧ decode (.sel 0b1111) = .error .reservedEncoding := by decide
/-- H8 to H11, and a must-be-zero bit of each format. -/
theorem test_decode_reserved : [(0x0400000301 : CommandWord), 0x0200000600, 0x0B00000000, 0x0000000000,
    0x0200001100, 0x0100000001, 0x0300001091, 0x0601980000, 0x0600980001, 0x0701801000, 0x0A00000002].map
      (fun w => decode (.host w [])) = List.replicate 11 (.error .reservedEncoding) := by decide
/-- R116. -/
theorem test_decode_bursts : decode (.host 0x0800000000 []) = .error .badBurst ∧
    decode (.host 0x0800000000 (List.replicate 161 0)) = .error .badBurst ∧
    decode (.host 0x0100000000 [0]) = .error .badBurst := by decide +kernel
/-- Table words are numbered as the table numbers them: 40-bit rows and 4-bit rows. -/
theorem test_decode_table_words : decodeTableWord 40 0x0300000091 = some (.wrreg .lcdc 0x91) ∧
    decodeTableWord 40 0x0800000000 = some (.ldoam (List.replicate 160 0)) ∧
    decodeTableWord 8 0b1011 = some .sqBegin := by decide +kernel

/-! ### Host operations (H vectors) -/

/-- H13, H14, H15. -/
theorem test_init : (next? (exec .init { State.reset with bufSize := 32768 })).map
      (fun t => (t.attached, t.response)) = some (false, some (.error 1 32768)) ∧
    (next? (exec .init State.reset)).map (fun t => t.attached) = some true ∧
    refusal? (exec .init idle) = some .alreadyAttached := by decide
/-- H12. -/
theorem test_not_attached : refusal? (exec (.rdreg .ly) State.reset) = some .notAttached := by decide
/-- H21: LY and MODE as at the moment of firing. -/
theorem test_rdreg_in_window :
    (next? (exec (.rdreg .ly) window7)).map (fun t => t.response) = some (some (.byte 7)) ∧
    (next? (exec (.rdreg .stat) window7)).map (fun t => t.response.map rdmodeResult) =
      some (some (some 2)) := by decide
/-- H16: MATCH stays stale. -/
theorem test_wrreg_lyc : regs? (exec (.wrreg .lyc 153) (at' .wait 0 0x01 153 0)) .stat = some 0x01 ∧
    regs? (exec (.wrreg .lyc 153) (at' .wait 0 0x01 153 0)) .lyc = some 153 := by decide
/-- H5, and the defined bits of H6. -/
theorem test_wrreg_stat : regs? (exec (.wrreg .stat 0x41) (at' .wait 0 0x01 0 0)) .stat = some 0x41 ∧
    (regs? (exec (.wrreg .stat 0x43) (at' .wait 0 0x01 0 0)) .stat).map hostBits = some 0b01000 :=
  ⟨by decide, congrArg some (hostBits_append _ _)⟩
/-- H1, H2, H8. -/
theorem test_setf : regs? (exec (.setf .lcdc 0x80) (at' .wait 0x11 0 0 0)) .lcdc = some 0x91 ∧
    regs? (exec (.setf .lcdc 0x00) (at' .wait 0x91 0 0 0)) .lcdc = some 0x91 ∧
    refusal? (exec (.setf .scx 1) idle) = some .reservedEncoding := by decide
/-- The defined bits of H7. -/
theorem test_setf_stat : (regs? (exec (.setf .stat 0x06) (at' .wait 0 0x05 0 0)) .stat).map hostBits = some 0 :=
  congrArg some (hostBits_append _ _)
/-- H3, H4. -/
theorem test_clrf : regs? (exec (.clrf .lcdc 0xFF) (at' .wait 0xFF 0 0 0)) .lcdc = some 0x00 ∧
    regs? (exec (.clrf .stat 0x20) (at' .wait 0 0x69 0 0)) .stat = some 0x49 := by decide
/-- The examples of R136 and R137. -/
theorem test_rdmem : (next? (exec (.rdmem 0x9800) { idle with mem := memOf [(0x9800, [0x2A])] })).map
    (fun t => t.response) = some (some (.byte 0x2A)) := by decide
theorem test_wrmem : (next? (exec (.wrmem 0x8010 0xC3) idle)).map (fun t => (t.mem, t.response)) =
    some ([(0x8010, 0xC3)], none) := by decide
/-- H17. -/
theorem test_ldoam : (next? (exec (.ldoam (List.replicate 40 [1, 2, 3, 4]).flatten)
      { idle with mem := memOf [(0xFDFF, List.replicate 162 0xEE)] })).map
    (fun t => [0xFDFF, 0xFE00, 0xFE01, 0xFE02, 0xFE03, 0xFE9C, 0xFE9F, 0xFEA0].map t.mem.read) =
    some [0xEE, 1, 2, 3, 4, 1, 4, 0xEE] := by decide +kernel
theorem test_ldoam_burst : refusal? (exec (.ldoam [1]) idle) = some .badBurst := by decide
/-- The example of R140. -/
theorem test_render : (next? (exec (.render 0x00 0x55 0xAA 0xFF) idle)).map (fun t => (t.phase, t.opal)) =
    some (.start, { c0 := 0x00, c1 := 0x55, c2 := 0xAA, c3 := 0xFF }) := by decide
/-- H19, H20, and a host operation in the middle of a frame (R247). -/
theorem test_window_refusals : refusal? (exec (.wrreg .scx 1) window7) = some .frameInProgress ∧
    refusal? (exec (.render 0 0 0 0) window7) = some .reentrantRender ∧
    refusal? (exec (.rdreg .ly) (at' .oam 0x80 2 3 0)) = some .frameInProgress := by decide
/-- H18. -/
theorem test_setirq : (next? (exec (.setirq true) idle)).map (fun t => (t.sink, t.armed)) =
    some (true, idle.armed) := by decide

/-! ### Tile decoder -/

/-- D1 and S1 as corrected, D4, D7. -/
theorem test_palette_index : (List.range 8).map (fun c => (paletteIndex (0xC3, 0x43) (BitVec.ofNat 3 c)).toNat) =
      [1, 3, 0, 0, 0, 0, 3, 3] ∧
    (List.range 8).map (fun c => (paletteIndex (0xA5, 0x3C) (BitVec.ofNat 3 c)).toNat) = [1, 0, 3, 2, 2, 3, 0, 1] ∧
    (List.range 8).map (fun c => (paletteIndex (0x80, 0x01) (BitVec.ofNat 3 c)).toNat) =
      [1, 0, 0, 0, 0, 0, 0, 2] := by decide
/-- D9, D10, D13, D14. -/
theorem test_color : [(0xE4 : Byte), 0x1B, 0x27, 0xD2].map (fun p => [(0 : TwoBit), 1, 2, 3].map fun i => (color i p).toNat) =
    [[0, 1, 2, 3], [3, 2, 1, 0], [3, 1, 2, 0], [2, 0, 1, 3]] := by decide
/-- D16 to D21, row 3. -/
theorem test_row_addresses :
    [(0x00 : Byte), 0x01, 0x7F, 0x80, 0x81, 0xFF].map (fun t => (rowAddress 0x8000 .unsigned t 3, rowAddress 0x8800 .signed t 3)) =
    [(0x8006, 0x8806), (0x8016, 0x97F6), (0x87F6, 0x9016), (0x8806, 0x9006), (0x8816, 0x8FF6), (0x8FF6, 0x8816)] := by
  decide

/-! ### Sprite scanner -/

/-- K1 to K5. -/
theorem test_scan_limit : [43, 44, 50, 51, 52].map (fun l =>
      (scan (objects (List.replicate 15 [60, 0, 0, 0])) l false).map Fin.val) =
    [[], List.range 10, List.range 10, List.range 10, []] := by decide +kernel
/-- K6, K10. -/
theorem test_scan_even : (scan (objects (List.replicate 30 [60, 0, 0, 0])) 50 true).map Fin.val =
      [0, 2, 4, 6, 8, 10, 12, 14, 16, 18] ∧
    [43, 44, 59, 60].map (fun l => (scan (memOf [(0xFE10, [60])]) l true).map Fin.val) = [[], [4], [4], []] := by
  decide +kernel
/-- K11 to K19: the first and last visible lines covered. -/
theorem test_covers : [(0 : Byte), 8, 9, 16, 159, 160, 255].map (fun y =>
      ((List.range 144).filter (covers · false y), ((List.range 144).filter (covers · true y)).length)) =
    [([], 0), ([], 8), ([0], 9), (List.range 8, 16), ([143], 1), ([], 0), ([], 0)] := by decide +kernel
/-- K21, K24, K26. -/
theorem test_sprite_row : spriteRow (memOf [(0xFE10, [72, 0, 0x10])]) 4 61 true = (0x10, 5) ∧
    spriteRow (memOf [(0xFE10, [72, 0, 0x10])]) 4 66 true = (0x11, 2) ∧
    spriteRow (memOf [(0xFE10, [72, 0, 0xFF])]) 4 66 true = (0x00, 2) := by decide

/-! ### Compositor -/

/-- Registers and memory of set-up Q with a window at WX, and the palette of the vectors. -/
def setupQ (lcdc wx wy : Byte) : State :=
  { (((at' .oam lcdc 0 0 0).setReg .wx wx).setReg .wy wy).setReg .bgp 0xE4 with
    mem := memOf [(0x8010, (List.replicate 8 [0xFF, 0x00]).flatten), (0x8020, (List.replicate 8 [0x00, 0xFF]).flatten),
      (0x9800, List.replicate 32 1), (0x9C00, List.replicate 32 2)]
    opal := { c0 := 0x00, c1 := 0x55, c2 := 0xAA, c3 := 0xFF } }

/-- C2 to C6, C8 at the columns around the window's edge. -/
theorem test_window_edges :
    [0, 159].map (pixel (setupQ 0xF1 0 0) 0) = [0xAA, 0xAA] ∧ [0, 1].map (pixel (setupQ 0xF1 8 0) 0) = [0x55, 0xAA] ∧
    [79, 80].map (pixel (setupQ 0xF1 87 0) 0) = [0x55, 0xAA] ∧
    [158, 159].map (pixel (setupQ 0xF1 166 0) 0) = [0x55, 0xAA] ∧ pixel (setupQ 0xF1 167 0) 0 159 = 0x55 ∧
    [79, 80].map (pixel (setupQ 0xF0 87 0) 0) = [0x00, 0xAA] ∧ pixel (setupQ 0xD0 87 0) 0 80 = 0x00 := by decide +kernel
/-- C7. -/
theorem test_window_top : pixel (setupQ 0xF1 7 1) 0 0 = 0x55 ∧ pixel (setupQ 0xF1 7 1) 1 0 = 0xAA := by
  decide +kernel

/-- The sprite set-up of C9 to C21: tile 3, background index 1 on tile column 2 only. -/
def setupS (lcdc : Byte) (bg : Byte) (rs : List (List Byte)) : State :=
  let m := memOf [(0x8020, (List.replicate 8 [0xFF, 0x00]).flatten), (0x8030, (List.replicate 8 [0xF0, 0xCC]).flatten),
    (0x98C2, [bg]), (0xFE00, rs.flatten)]
  { (((at' .oam lcdc 0 50 0).setReg .bgp 0xE4).setReg .obp0 0xE4).setReg .obp1 0x1B with
    mem := m, sb := scan m 50 false, opal := { c0 := 0x00, c1 := 0x55, c2 := 0xAA, c3 := 0xFF } }

/-- C9, C10, C11. -/
theorem test_sprite_priority :
    [16, 18, 20, 22].map (pixel (setupS 0x93 2 [[60, 24, 3, 0x80]]) 50) = [0x55, 0x55, 0x55, 0x55] ∧
    [16, 18, 20, 22].map (pixel (setupS 0x93 2 [[60, 24, 3, 0x00]]) 50) = [0xFF, 0x55, 0xAA, 0x55] ∧
    [16, 18, 20, 22].map (pixel (setupS 0x93 0 [[60, 24, 3, 0x80]]) 50) = [0xFF, 0x55, 0xAA, 0x00] := by
  decide +kernel
/-- C12, C13, C16, C17, C19, C20, C21. -/
theorem test_sprite_pixels :
    [16, 18, 20, 22].map (pixel (setupS 0x93 0 [[60, 24, 3, 0x20]]) 50) = [0x00, 0xAA, 0x55, 0xFF] ∧
    [16, 18, 20, 22].map (pixel (setupS 0x93 0 [[60, 24, 3, 0x10]]) 50) = [0x00, 0xAA, 0x55, 0x00] ∧
    [0, 1].map (pixel (setupS 0x93 0 [[60, 1, 3, 0x20]]) 50) = [0xFF, 0x00] ∧
    [158, 159].map (pixel (setupS 0x93 0 [[60, 167, 3, 0x00]]) 50) = [0x00, 0xFF] ∧
    [0, 2, 4, 6, 8, 10].map (pixel (setupS 0x93 0 [[60, 8, 3, 0x00], [60, 12, 3, 0x10]]) 50) =
      [0xFF, 0x55, 0xAA, 0xAA, 0x55, 0x00] ∧
    [16, 18, 20, 22].map (pixel (setupS 0x93 2 [[60, 24, 3, 0x80], [60, 24, 3, 0x00]]) 50) =
      [0xFF, 0x55, 0xAA, 0x55] ∧
    pixel (setupS 0x91 2 [[60, 24, 3, 0x00]]) 50 16 = 0x55 := by decide +kernel

/-! ### Sequencer steps and tracker (the examples of R193 to R201, the T vectors) -/

/-- The display-off vector: the frame buffer is BLANK, LY and STAT stay, nothing fires. -/
theorem test_sq_blank : (next? (exec .sqBlank { at' .start 0x00 0x79 153 153 with
      cfg := { Config.Params.default with blank := 0x5A }, sink := true })).map
    (fun t => ([t.fb[0][0], t.fb[143][159], t.regs.ly, t.regs.stat], t.irqTrace.length, t.phase)) =
    some ([0x5A, 0x5A, 153, 0x79], 0, .wait) := by decide +kernel
/-- The example of R195. -/
theorem test_sq_begin : regs? (exec .sqBegin (at' .start 0x80 0x41 77 0)) .ly = some 0 ∧
    regs? (exec .sqBegin (at' .start 0x80 0x41 77 0)) .stat = some 0x46 ∧
    trace? (exec .sqBegin (at' .start 0x80 0x41 77 0)) = some [(0, 2, false)] := by decide +kernel
/-- The example of R196, and STAT of T7 at (5,3). -/
theorem test_sq_xfer : regs? (exec .sqXfer (at' .oam 0x80 0x46 5 5)) .stat = some 0x47 ∧
    trace? (exec .sqXfer (at' .oam 0x80 0x46 5 5)) = some [(5, 3, false)] ∧
    (next? (exec .sqXfer (setupQ 0xF1 87 0))).map (fun t => (t.fb[0][79], t.fb[0][80], t.fb[1][0])) =
      some (0x55, 0xAA, 0x00) := by decide +kernel
/-- STAT of T7 at (5,0). -/
theorem test_sq_hbl : regs? (exec .sqHbl (at' .xfer 0x80 0x47 5 5)) .stat = some 0x44 ∧
    trace? (exec .sqHbl (at' .xfer 0x80 0x47 5 5)) = some [(5, 0, false)] := by decide
/-- STAT of T7 at (5,2): the new line is compared. -/
theorem test_sq_line : regs? (exec .sqLine (at' .hbl 0x80 0x40 4 5)) .stat = some 0x46 ∧
    trace? (exec .sqLine (at' .hbl 0x80 0x40 4 5)) = some [(5, 2, false)] ∧
    (next? (exec .sqLine { at' .hbl 0x80 0x40 43 0 with mem := objects [[60]] })).map (fun t => t.sb) = some [0] := by
  decide +kernel
/-- T4 and T10. -/
theorem test_sq_vbl : regs? (exec .sqVbl (at' .hbl 0x80 0x10 143 0)) .ly = some 144 ∧
    trace? (exec .sqVbl (at' .hbl 0x80 0x10 143 0)) = some [(144, 1, false)] ∧
    regs? (exec .sqVbl (at' .hbl 0x80 0x40 143 144)) .stat = some 0x45 := by decide
/-- T11 fires at the poll; T15 does not, its flag is spent. -/
theorem test_sq_vline :
    trace? (exec .sqVline { at' .vbl 0x80 0x41 149 150 with armed := idle.armed.set .vbl true }) =
      some [(150, 1, false)] ∧
    trace? (exec .sqVline (at' .vbl 0x80 0x51 149 150)) = some [] ∧
    regs? (exec .sqVline (at' .vbl 0x80 0x41 152 153)) .stat = some 0x45 := by decide
theorem test_sq_end : (next? (exec .sqEnd (at' .vbl 0x80 0x01 153 0))).map (fun t => (t.phase, t.regs.ly, t.regs.stat)) =
    some (.wait, 153, 0x01) := by decide
/-- T6: after the entry fires, polls fire nothing. -/
theorem test_edge_trigger :
    let polled := pollMode .sqLine .oam (pollMode .sqLine .oam (enterMode .sqLine .oam (at' .hbl 0x80 0x20 9 0)))
    polled.irqTrace.map (fun e => (e.ly.toNat, e.mode)) = [(9, .oam)] ∧ polled.armed.oam = false := by decide
/-- A delivered notification stops the step before its scan; the window closing resumes it (R216, R218). -/
theorem test_window : (next? (exec .sqLine { at' .hbl 0x80 0x20 43 0 with sink := true, mem := objects [[60]] })).map
      (fun t => (t.window, t.phase, t.sb)) = some (some .sqLine, .hbl, []) ∧
    (next? (resumeStep { at' .hbl 0x80 0x22 44 0 with window := some .sqLine, mem := objects [[60]] })).map
      (fun t => (t.window, t.phase, t.sb)) = some (none, .oam, [0]) := by decide +kernel

/-! ### Steps of the machine -/

theorem test_fetch_host : (next? (step (State.reset.withFetchWord 40 0x0300000091))).map (fun t => t.regs.lcdc) =
    some 0x91 := by decide
theorem test_fetch_step : (next? (step (State.reset.withFetchWord 8 0b0001))).map (fun t => (t.phase, t.regs.ly)) =
    some (.vbl, 144) := by decide
/-- R112. -/
theorem test_rest : step State.reset = .next State.reset := rfl

/-! ### Program text (R117, R118) -/

/-- P1. -/
theorem test_assemble_P1 : assemble "INIT\nCLRF LCDC, 0x80\nRENDER 0x00, 0x55, 0xAA, 0xFF ; c".toList =
    some [.command 0x0100000000 [], .command 0x0500000080 [], .command 0x09FFAA5500 [], .awaitFrame] := by decide +kernel
/-- Flag names, binary and decimal numbers, pseudo-operations. -/
theorem test_assemble_pseudo : assemble "WRREG 0xB, 87\nSETF LCDC, LCD_EN|BG_EN\nIRQON\nWROBJ 1, 9, 8, 0b11, 0".toList =
    some [.command 0x0300000B57 [], .command 0x0400000081 [], .command 0x0A00000001 [], .command 0x0700FE0409 [],
      .command 0x0700FE0508 [], .command 0x0700FE0603 [], .command 0x0700FE0700 []] := by decide +kernel
/-- The last address a WRTILE may start at, and one past it (log 21). -/
theorem test_assemble_tile :
    (assemble "WRTILE 0xFFF0, 0, 0, 0, 0, 0, 0, 0, 0, 0, 0, 0, 0, 0, 0, 0, 9".toList).map (·.getLast?) =
      some (some (.command 0x0700FFFF09 [])) ∧
    assemble "WRTILE 0xFFF1, 0, 0, 0, 0, 0, 0, 0, 0, 0, 0, 0, 0, 0, 0, 0, 9".toList = none := by decide +kernel
/-- A wait closes the window it finds and goes on; at rest it is over (R106; log 22). -/
theorem test_await :
    (next? (step { at' .hbl 0x80 0x20 44 0 with window := some .sqHbl, inbox := [.awaitFrame, .closeWindow] })).map
      (fun t => (t.window, t.phase, t.inbox)) = some (none, .hbl, [.awaitFrame, .closeWindow]) ∧
    (next? (step { idle with inbox := [.awaitFrame, .closeWindow] })).map (·.inbox) = some [.closeWindow] := by
  decide +kernel
theorem test_assemble_objects : assemble "LDOAM\n.obj 1, 2, 3, 4 * 40".toList =
      some [.command 0x0800000000 (List.replicate 40 [1, 2, 3, 4]).flatten] ∧
    assemble "LDOAM\n.obj 1, 2, 3, 4 * 39".toList = none := by decide +kernel

/-! ### Witnesses: inputs that meet the hypotheses of each statement, clause by clause -/

/-- The host's turn with this command at the head of its inbox. -/
def presenting (w : CommandWord) (d : List Byte) : State := { idle with inbox := [.command w d, .closeWindow] }

theorem idle_idle : idle.Idle := ⟨rfl, rfl, rfl⟩
theorem window7_readable : window7.Readable := ⟨rfl, .inl (by decide)⟩

theorem witness_DecodeEncodeRoundTrip : (Instr.clrf .lcdc 0xFF).wf = true ∧
    (Instr.ldoam (List.replicate 160 0xFF)).wf = true ∧ (Instr.rdmem 0xFFFF).wf = true := by decide +kernel
theorem witness_HostWordHasOneMeaning : decode (.host 0x09FFAA5500 []) = .ok (.render 0x00 0x55 0xAA 0xFF) := by
  decide
/-- An undefined opcode, and a defined one with a must-be-zero bit set. -/
theorem witness_UnmatchedWordsRefused : ∀ w ∈ [(0x0B00000000 : CommandWord), 0x0A00000002],
    (∀ r ∈ [((0x0100000000 : CommandWord), (0xFFFFFFFFFF : CommandWord)), (0x0200000000, 0xFFFFFFF0FF),
        (0x0300000000, 0xFFFFFFF000), (0x0400000000, 0xFFFFFFF000), (0x0500000000, 0xFFFFFFF000),
        (0x0600000000, 0xFFFF0000FF), (0x0700000000, 0xFFFF000000), (0x0800000000, 0xFFFFFFFFFF),
        (0x0900000000, 0xFF00000000), (0x0A00000000, 0xFFFFFFFFFE)], w &&& r.2 ≠ r.1) ∧
    (presenting w []).hostTurn = true ∧ (presenting w []).inbox = .command w [] :: [.closeWindow] := by
  intro w hw
  rcases List.mem_cons.mp hw with rfl | hw
  · exact ⟨by simp, rfl, rfl⟩
  · cases List.mem_singleton.mp hw; exact ⟨by simp, rfl, rfl⟩
/-- RDREG 15, CLRF 6, SETF SCY (the first number above STAT's). -/
theorem witness_ReservedRegisterNumbersRefused :
    (presenting 0x0200000F00 []).hostTurn = true ∧
    (fieldOp 0x0200000F00).toNat ∈ [2, 3, 4, 5] ∧ (fieldReg 0x0200000F00).toNat ∈ [6, 12, 13, 14, 15] ∧
    (fieldOp 0x0500000601).toNat ∈ [2, 3, 4, 5] ∧ (fieldReg 0x0500000601).toNat ∈ [6, 12, 13, 14, 15] ∧
    (fieldOp 0x0400000201).toNat ∈ [4, 5] ∧ (fieldReg 0x0400000201).toNat ∉ [0, 1] := by decide
theorem witness_BurstLengthFixedByOpcode : (presenting 0x0800000000 []).hostTurn = true ∧
    decode (.host 0x0800000000 (List.replicate 160 0)) = .ok (.ldoam (List.replicate 160 0)) ∧
    (List.replicate 159 (0 : Byte)).length ≠ 160 ∧
    decode (.host 0x0A00000001 []) = .ok (.setirq true) ∧ [(0 : Byte)].length ≠ 0 := by decide +kernel
theorem witness_StepRunsDecoded_host : (presenting 0x0A00000001 []).hostTurn = true ∧
    (presenting 0x0A00000001 []).inbox = .command 0x0A00000001 [] :: [.closeWindow] ∧
    decode (.host 0x0A00000001 []) = .ok (.setirq true) := ⟨rfl, rfl, by decide⟩
theorem witness_StepRunsDecoded_sequencer : (at' .hbl 0x80 0 143 0).hostTurn = false ∧
    decode (.sel (encodeSel (at' .hbl 0x80 0 143 0).phase (at' .hbl 0x80 0 143 0).conditionBit)) = .ok .sqVbl := by
  decide
/-- One state for each row; the lines are those at which the rows meet. -/
theorem witness_SelectionMap :
    ((at' .start 0x7F 0 0 0).window = none ∧ lcdEn (at' .start 0x7F 0 0 0).regs.lcdc = false) ∧
    lcdEn (at' .start 0x80 0 0 0).regs.lcdc = true ∧ (at' .oam 0x80 0 0 0).phase = .oam ∧
    (at' .xfer 0x80 0 0 0).phase = .xfer ∧ (at' .hbl 0x80 0 142 0).regs.ly ≠ 143 ∧
    (at' .hbl 0x80 0 143 0).regs.ly = 143 ∧ (at' .vbl 0x80 0 152 0).regs.ly ≠ 153 ∧
    (at' .vbl 0x80 0 153 0).regs.ly = 153 ∧ (idle.phase = .wait ∧ idle.inbox = []) := by decide
theorem witness_OpenWindowStays : window7.window ≠ none ∧ window7.inbox = [] := by decide
theorem witness_HostOperationsRefused :
    ((Instr.setirq true).isHost = true ∧ (Instr.setirq true).wf = true ∧ State.reset.attached = false) ∧
    ((at' .oam 0x80 2 0 0).attached = true ∧ (at' .oam 0x80 2 0 0).window = none ∧ (at' .oam 0x80 2 0 0).phase ≠ .wait) ∧
    (window7.attached = true ∧ window7.window ≠ none) := by decide
/-- 65536 bytes are enough, 65535 are not. -/
theorem witness_InitOutcomes : (State.reset.window = none ∧ State.reset.phase = .wait ∧ State.reset.attached = false ∧
      65536 ≤ ({ State.reset with bufSize := 65536 } : State).bufSize) ∧
    ({ State.reset with bufSize := 65535 } : State).bufSize < 65536 ∧
    (idle.attached = true ∧ idle.window = none ∧ idle.phase = .wait) := by decide
theorem witness_ReadsReturnStoredByte : idle.Readable ∧ window7.Readable := ⟨⟨rfl, .inr rfl⟩, window7_readable⟩
theorem witness_WrregStoresByte : idle.Idle ∧ Reg.ly ≠ .stat := ⟨idle_idle, by decide⟩
/-- The three operations, each in the defined and in the undefined case of R37. -/
theorem witness_HostWriteToStat : (at' .wait 0 0x05 0 0).Idle ∧
    engineBits 0xFD = engineBits (at' .wait 0 0x05 0 0).regs.stat ∧
    engineBits 0x00 ≠ engineBits (at' .wait 0 0x05 0 0).regs.stat ∧
    engineBits ((at' .wait 0 0x05 0 0).regs.stat ||| 0x40) = engineBits (at' .wait 0 0x05 0 0).regs.stat ∧
    engineBits ((at' .wait 0 0x05 0 0).regs.stat ||| 0x06) ≠ engineBits (at' .wait 0 0x05 0 0).regs.stat ∧
    engineBits ((at' .wait 0 0x05 0 0).regs.stat &&& ~~~0x02) = engineBits (at' .wait 0 0x05 0 0).regs.stat ∧
    engineBits ((at' .wait 0 0x05 0 0).regs.stat &&& ~~~0xFF) ≠ engineBits (at' .wait 0 0x05 0 0).regs.stat :=
  ⟨⟨rfl, rfl, rfl⟩, by decide, by decide, by decide, by decide, by decide, by decide⟩
theorem witness_FlagOperations : idle.Idle ∧ (0xF8 : Byte) &&& 0x07 = 0 ∧ Reg.scy ≠ .lcdc ∧ Reg.scy ≠ .stat :=
  ⟨idle_idle, by decide, by decide, by decide⟩
theorem witness_WrmemStoresByte : idle.Idle ∧ idle.mem.wf := ⟨idle_idle, Memory.nil_wf⟩
theorem witness_LdoamOverwritesTable : idle.mem.wf ∧ (List.replicate 160 (1 : Byte)).length = 160 ∧ idle.Idle ∧
    (List.replicate 161 (1 : Byte)).length ≠ 160 := ⟨Memory.nil_wf, List.length_replicate, idle_idle, by simp⟩
theorem witness_LdoamIsManyWrmem : (List.replicate 160 (1 : Byte)).length = 160 ∧ idle.Idle :=
  ⟨List.length_replicate, idle_idle⟩
theorem witness_RenderStartsFrame : idle.Idle := idle_idle
theorem witness_SetirqInstallsSink : idle.Idle := idle_idle
theorem witness_MemoryLaws : Memory.wf [(0, 1), (0xFFFF, 255)] ∧ (List.replicate 160 (1 : Byte)).length = 160 :=
  ⟨⟨by decide, by decide⟩, List.length_replicate⟩
theorem witness_AddressesStayInBuffer : (255 : Nat) < 256 ∧ (3 : Nat) < 4 := by decide
/-- A record that is hit but not selected: the eleventh. -/
theorem witness_ScanSelectsFirstTen :
    ((objects (List.replicate 11 [16, 0, 0, 0])).read (0xFE00 + 4 * 10)).toNat = 16 ∧
    (9 : Fin 40) ∈ scan (objects (List.replicate 11 [16, 0, 0, 0])) 0 false ∧
    (10 : Fin 40) ∉ scan (objects (List.replicate 11 [16, 0, 0, 0])) 0 false := by decide +kernel
theorem witness_VerticalRange : (143 : Nat) < 144 ∧ (8 : Byte).toNat ≤ 8 ∧ (0 : Byte).toNat = 0 ∧
    160 ≤ (160 : Byte).toNat := by decide
/-- The last row of the upper half, the first of the lower half, and an 8-row sprite. -/
theorem witness_SpriteRowOfSelected :
    ((0 : Fin 40) ∈ scan (objects [[16]]) 7 true ∧ 7 + 16 - (16 : Nat) < 8) ∧
    ((0 : Fin 40) ∈ scan (objects [[16]]) 8 true ∧ 8 ≤ 8 + 16 - (16 : Nat)) ∧
    (0 : Fin 40) ∈ scan (objects [[16]]) 7 false := by decide +kernel
/-- The window's first pixel, and the pixels left of it and above it. -/
theorem witness_WindowElseBackground :
    (winEn (setupQ 0xF1 87 10).regs.lcdc = true ∧ (setupQ 0xF1 87 10).regs.wy.toNat ≤ 10 ∧
      (setupQ 0xF1 87 10).regs.wx.toNat ≤ 80 + 7) ∧
    ¬ (winEn (setupQ 0xF1 87 10).regs.lcdc = true ∧ (setupQ 0xF1 87 10).regs.wy.toNat ≤ 10 ∧
      (setupQ 0xF1 87 10).regs.wx.toNat ≤ 79 + 7) ∧
    ¬ (winEn (setupQ 0xF1 87 10).regs.lcdc = true ∧ (setupQ 0xF1 87 10).regs.wy.toNat ≤ 9 ∧
      (setupQ 0xF1 87 10).regs.wx.toNat ≤ 80 + 7) := by decide +kernel
/-- The columns left of, at both ends of and right of a sprite at x = 24. -/
theorem witness_SpriteColumns :
    let x := ((setupS 0x93 0 [[60, 24, 3, 0]]).mem.read (0xFE00 + 4 * 0 + 1)).toNat
    15 + 8 < x ∧ (x ≤ 16 + 8 ∧ 16 + 8 ≤ x + 7) ∧ (x ≤ 23 + 8 ∧ 23 + 8 ≤ x + 7) ∧ x + 7 < 24 + 8 := by decide +kernel
/-- A transparent column and a drawn one, with PRIO and without, over index 1 and over index 0. -/
theorem witness_PriorityRule :
    spriteIndex (setupS 0x93 0 [[60, 24, 3, 0x80]]) 0 50 22 = some 0 ∧
    (spriteIndex (setupS 0x93 0 [[60, 24, 3, 0x80]]) 0 50 16 = some 3 ∧ (3 : TwoBit) ≠ 0 ∧ (1 : TwoBit) ≠ 0 ∧
      ((setupS 0x93 0 [[60, 24, 3, 0x80]]).mem.read (0xFE00 + 4 * 0 + 3)).getLsbD 7 = true) ∧
    (spriteIndex (setupS 0x93 0 [[60, 24, 3, 0x10]]) 0 50 16 = some 3 ∧
      ((setupS 0x93 0 [[60, 24, 3, 0x10]]).mem.read (0xFE00 + 4 * 0 + 3)).getLsbD 7 = false) := by decide +kernel
/-- C20: record 0 is held back, record 1 draws; and C14, where nothing draws. -/
theorem witness_FirstDrawingSpriteWins_draws :
    let s := setupS 0x93 2 [[60, 24, 3, 0x80], [60, 24, 3, 0x00]]
    objEn s.regs.lcdc = true ∧ s.sb = [0] ++ 1 :: [] ∧
    spriteIndex s 0 50 16 = some 3 ∧ flagPrio (objFlags s.mem 0) = true ∧ bgwinIndex s 50 16 ≠ 0 ∧
    spriteIndex s 1 50 16 = some 3 ∧ flagPrio (objFlags s.mem 1) = false := by decide +kernel
theorem witness_FirstDrawingSpriteWins_none :
    let s := setupS 0x93 2 [[60, 0, 3, 0x00]]
    objEn s.regs.lcdc = true ∧ s.sb = [0] ∧ spriteIndex s 0 50 0 = none := by decide +kernel
theorem witness_OutputByte : objEn (setupQ 0xD1 0 0).regs.lcdc = false ∧
    (objEn (setupQ 0xD0 0 0).regs.lcdc = false ∧ winEn (setupQ 0xD0 0 0).regs.lcdc = false ∧
      bgEn (setupQ 0xD0 0 0).regs.lcdc = false) := by decide
/-- A memory that differs just below and just above the object table. -/
theorem witness_PixelReadSet : (143 : Nat) < 144 ∧ (159 : Nat) < 160 ∧
    (∀ a, (0xFE00 ≤ a ∧ a ≤ 0xFE9F) ∨
      (mapBase (bgMap idle.regs.lcdc) ≤ a ∧ a < mapBase (bgMap idle.regs.lcdc) + 1024) ∨
      (mapBase (winMap idle.regs.lcdc) ≤ a ∧ a < mapBase (winMap idle.regs.lcdc) + 1024) ∨
      (0x8000 ≤ a ∧ a ≤ 0x8FFF) ∨
      (tileData idle.regs.lcdc = false ∧ idle.cfg.tileBaseSigned.val ≤ a ∧
        a ≤ idle.cfg.tileBaseSigned.val + 0xFFF) →
      idle.mem.read a = Memory.read [(0xFDFF, 1), (0xFEA0, 1)] a) := by
  refine ⟨by decide, by decide, fun a ha => ?_⟩
  have e1 : mapBase (bgMap idle.regs.lcdc) = 0x9800 := rfl
  have e2 : mapBase (winMap idle.regs.lcdc) = 0x9800 := rfl
  have e3 : idle.cfg.tileBaseSigned.val = 0x8800 := rfl
  rw [e1, e2, e3] at ha
  have h1 : 0xFDFF ≠ a := by omega
  have h2 : 0xFEA0 ≠ a := by omega
  show Memory.read [] a = _
  simp only [Memory.read, if_neg h1, if_neg h2]
theorem witness_UnusedRegistersDoNotMatter : winEn idle.regs.lcdc = false ∧ bgEn idle.regs.lcdc = false ∧
    objEn idle.regs.lcdc = false := by decide

/-- Every querying step with a delivered notification: a state at its position, with a sink and its own condition or
the line compare. -/
def delivering : Interrupted → State
  | .sqBegin => { at' .start 0x80 0x20 77 5 with sink := true }
  | .sqXfer => { at' .oam 0x80 0x46 143 143 with sink := true }
  | .sqHbl => { at' .xfer 0x80 0x0B 143 0 with sink := true }
  | .sqLine => { at' .hbl 0x80 0x40 142 143 with sink := true }
  | .sqVbl => { at' .hbl 0x80 0x10 143 0 with sink := true }
  | .sqVline => { at' .vbl 0x80 0x41 152 153 with sink := true, armed := idle.armed.set .vbl true }

/-- The same positions with no sink: nothing is delivered. -/
theorem witness_querying_steps : ∀ k ∈ [Interrupted.sqBegin, .sqXfer, .sqHbl, .sqLine, .sqVbl, .sqVline],
    (delivering k).window = none ∧ k.delivered (delivering k) = true ∧
    k.delivered { delivering k with sink := false } = false := by decide
theorem witness_SqXferComposesLine : (delivering .sqXfer).window = none ∧
    (delivering .sqXfer).regs.ly.toNat < 144 := by decide
theorem witness_ClosingResumesStep : ∀ k ∈ [Interrupted.sqBegin, .sqXfer, .sqHbl, .sqLine, .sqVbl, .sqVline],
    ({ delivering k with window := some k, inbox := [.closeWindow] } : State).window = some k ∧
    ({ delivering k with window := some k, inbox := [.closeWindow] } : State).inbox = .closeWindow :: [] := by decide
theorem witness_SinkDoesNotChangeTheFrame : (delivering .sqVline).window = none ∧
    Interrupted.delivered .sqVline (delivering .sqVline) = true := by decide
theorem witness_AtMostOneFiringPerEntry : condAt (at' .hbl 0x80 0x20 9 0).regs.stat (at' .hbl 0x80 0x20 9 0).regs.lyc .oam
    (at' .hbl 0x80 0x20 9 0).regs.ly = true := by decide
/-- Armed with the condition on, not armed, and armed with the condition off. -/
theorem witness_NotificationCondition :
    let s := { at' .vbl 0x80 0x11 144 0 with armed := idle.armed.set .vbl true }
    (s.armed.get .vbl = true ∧ Machine.cond s.regs.stat .vbl = true) ∧ s.armed.get .oam = false ∧
    Machine.cond (s.setReg .stat 0x01).regs.stat .vbl = false := by decide
theorem witness_EngineWritesOnlyItsOwn : ∃ s t : State, s.hostTurn = false ∧ step s = .next t :=
  ⟨at' .hbl 0x80 0x40 142 143, _, by decide,
    (step_selected rfl (by decide : selected (at' .hbl 0x80 0x40 142 143) = some .sqLine)).trans
      (exec_interrupted .sqLine _)⟩
theorem witness_TraceGrowsByAtMostOne : ∃ s t : State, step s = .next t :=
  let ⟨s, t, _, h⟩ := witness_EngineWritesOnlyItsOwn; ⟨s, t, h⟩
theorem witness_HostWritesOnlyItsOwn : ∃ (i : Instr) (s t : State), i.isHost = true ∧ exec i s = .next t ∧
    (∀ c0 c1 c2 c3, i ≠ .render c0 c1 c2 c3) ∧ (∀ v, i ≠ .wrreg .ly v) ∧ (∀ a v, i ≠ .wrmem a v) ∧ ∀ d, i ≠ .ldoam d :=
  ⟨.setirq true, idle, _, rfl, whenIdle_of_idle idle_idle .frameInProgress _, nofun, nofun, nofun, nofun⟩
theorem witness_SequencerNeverStops : (at' .vbl 0 0 255 0).hostTurn = false := by decide

/-- A frame about to start, with every enable on. -/
def frameStart : State := at' .start 0xF7 0x78 200 153

theorem witness_FrameTakes443Steps : frameStart.window = none ∧ frameStart.phase = .start ∧
    lcdEn frameStart.regs.lcdc = true ∧ frameStart.sink = false := by decide
/-- The run of FrameDrawsEveryLine and FrameFiresAsListed exists. -/
theorem witness_FrameDrawsEveryLine : ∃ t, core.run 443 frameStart = .next t :=
  run_quiet 443 rfl rfl rfl

/-- In the middle of a frame: line 0 is being transferred, the window of SQ_XFER open. -/
def midFrame : State :=
  { at' .oam 0x80 0x47 0 0 with window := some .sqXfer, sink := true, inbox := [.closeWindow], sb := scan [] 0 false }

theorem midFrame_inv : Machine.Inv midFrame where
  memory := Memory.nil_wf
  sprites := ⟨scan_length_le _ _ _, scan_pairwise _ _ _⟩
  position := ⟨rfl, by decide⟩
  attached := by decide
  sink := by decide
  shown := by intro m h; cases h; decide
  scanned := fun _ => rfl
theorem witness_InvariantKept : ∃ s t : State, Machine.Inv s ∧ step s = .next t :=
  ⟨midFrame, _, midFrame_inv, rfl⟩
theorem witness_InvariantAtReset : PowerUp.named.mem.wf ∧ SpritesOk PowerUp.named.sb ∧
    Memory.wf [(0xFFFF, 1)] ∧ SpritesOk [0, 1, 2, 3, 4, 5, 6, 7, 8, 39] := by decide
theorem witness_FrameProgressKept_step : ∃ s t : State, Machine.Inv s ∧ FrameProgress s ∧ step s = .next t :=
  ⟨midFrame, _, midFrame_inv, fun l _ h => absurd h (Nat.not_lt_zero l), rfl⟩

/-- The last position of a frame, its 144 lines drawn. -/
def lastPosition : State :=
  { at' .vbl 0x80 0x01 153 0 with fb := Vector.ofFn fun l => frameLine (at' .vbl 0x80 0x01 153 0) l.val }

theorem witness_FrameProgressKept_end : Machine.Inv lastPosition ∧ FrameProgress lastPosition ∧
    lastPosition.window = none ∧ lastPosition.phase = .vbl ∧ lastPosition.regs.ly = 153 := by
  refine ⟨{ memory := Memory.nil_wf, sprites := ⟨Nat.zero_le _, List.Pairwise.nil⟩, position := ⟨by decide, by decide⟩
            attached := nofun, sink := fun h => absurd rfl h
            shown := by intro m h; cases h; decide
            scanned := fun h => by rcases h with h | h <;> cases h }, fun l h _ => ?_, rfl, rfl, rfl⟩
  have e : frameLine lastPosition l = frameLine (at' .vbl 0x80 0x01 153 0) l :=
    frameLine_congr (s := at' .vbl 0x80 0x01 153 0) (t := lastPosition) rfl rfl (fun _ _ _ => rfl) rfl l
  rw [e]
  exact Vector.getElem_ofFn h
theorem witness_ConfigurationBound : 0xF000 < 0xF001 ∧ 0xF000 ≤ 0xF000 := by decide

end Sys2Proof.Tests
end

