-- ==== Sys2Proof/Proofs/Scope.lean ====
section
/-! PROOFS. What a step runs (R14, R86, R107): what was fetched, decoded. -/

namespace Sys2Proof.Machine

/-- What was fetched runs as the operation it decodes to. -/
theorem execFetched_of_decode {f : Fetched} {i : Instr} (h : decode f = .ok i) (s : State) :
    execFetched f s = exec i s := by
  simp only [execFetched, h]

/-- On the host's turn the head of the inbox is taken and acted on (R14). -/
theorem step_of_hostTurn {s : State} {a : HostInput} {rest : List HostInput} (ht : s.hostTurn = true)
    (hi : s.inbox = a :: rest) : step s = hostAct a { s with inbox := rest } := by
  simp only [step, ht, if_true, hostStep, hi]

/-- On the sequencer's turn the selection word it forms is run (R14, R107). -/
theorem step_of_sequencerTurn {s : State} (ht : s.hostTurn = false) :
    step s = execFetched (.sel s.selectionWord) s := by
  simp only [step, ht, Bool.false_eq_true, if_false, sequencerStep]

/-- Settles O7: on each turn the step is `execFetched` of the word that turn fetches. -/
theorem stepRunsDecoded : Obligations.StepRunsDecoded := by
  refine ⟨fun s w d rest i ht hi hd => ?_, fun s i ht hd => ?_⟩
  · calc step s = execFetched (.host w d) { s with inbox := rest } := step_of_hostTurn ht hi
      _ = exec i { s with inbox := rest } := execFetched_of_decode hd _
  · calc step s = execFetched (.sel s.selectionWord) s := step_of_sequencerTurn ht
      _ = exec i s := execFetched_of_decode hd s

end Sys2Proof.Machine
end

section
/-! PROOFS. The state between steps and inside them (R31, R43 to R48, R53, R86): what the engine may change, what holds
once a step's query is over, and from these the invariant and the progress of a frame. -/

namespace Sys2Proof.Machine

/-! ### What the engine changes -/

/-- Going from `s` to `t` changes nothing the host owns but the output buffer (R31, R48, R225). -/
structure EngineOnly (s t : State) : Prop where
  regs  : ∀ r, r ≠ .ly → r ≠ .stat → t.regs.get r = s.regs.get r
  host  : hostBits t.regs.stat = hostBits s.regs.stat
  frame : t = { s with regs := t.regs, phase := t.phase, armed := t.armed, sb := t.sb, fb := t.fb
                       irqTrace := t.irqTrace, window := t.window }

theorem EngineOnly.trans {s u t : State} (a : EngineOnly s u) (b : EngineOnly u t) : EngineOnly s t where
  regs r h1 h2 := (b.regs r h1 h2).trans (a.regs r h1 h2)
  host := b.host.trans a.host
  frame := b.frame.trans (by rw [a.frame])

/-- Writing the engine's own fields beside the registers. -/
theorem EngineOnly.of_regs {s t : State} (hr : t.regs = s.regs)
    (hf : t = { s with phase := t.phase, sb := t.sb, fb := t.fb }) : EngineOnly s t where
  regs r _ _ := by rw [hr]
  host := by rw [hr]
  frame := hf.trans (by rw [hf])

theorem engineOnly_setPhase (s : State) (p : Phase) : EngineOnly s (s.setPhase p) := .of_regs rfl rfl

theorem engineOnly_blankFill (s : State) : EngineOnly s (blankFill s) := .of_regs rfl rfl

theorem engineOnly_finishStep (k : Interrupted) (s : State) : EngineOnly s (finishStep k s) :=
  .of_regs (finishStep_regs k s) (finishStep_frame k s)

theorem engineOnly_queryPart (k : Interrupted) (s : State) : EngineOnly s (queryPart k s) := by
  obtain ⟨-, -, -, hhost, hregs, -⟩ := queryPart_queried k s
  exact ⟨hregs, hhost, (queryPart_frame k s).trans (by rw [queryPart_frame])⟩

/-- What the engine changes does not show in the lines of the frame (R86, R183). -/
theorem EngineOnly.frameLine_eq {s t : State} (h : EngineOnly s t) (l : Nat) : frameLine t l = frameLine s l :=
  frameLine_congr (by rw [h.frame]) (by rw [h.frame]) h.regs (by rw [h.frame]) l

/-- A step of the sequencer's turn is SQ_BLANK, SQ_END, or a step that queries the tracker, which a notification
stops or which runs to its end (R108, R194, R216). -/
theorem sequencerTurn_cases {s t : State} (hw : s.window = none) {i : Instr} (hi : selected s = some i)
    (h : exec i s = .next t) :
    t = (blankFill s).setPhase .wait ∨ t = s.setPhase .wait ∨
    ∃ k : Interrupted, k.SelectsAt s ∧
      ((k.delivered s = true ∧ t = queryPart k s) ∨
        (k.delivered s = false ∧ t = finishStep k (queryPart k s))) := by
  obtain ⟨rfl, -⟩ | ⟨rfl, -⟩ | ⟨k, rfl, hk⟩ := selected_cases hi
  · cases h; exact .inl rfl
  · cases h; exact .inr (.inl rfl)
  · exact .inr (.inr ⟨k, hk, exec_instr_cases k hw h⟩)

/-- Every step of the sequencer's turn (R86). -/
theorem step_engineOnly {s t : State} (ht : s.hostTurn = false) (h : step s = .next t) : EngineOnly s t := by
  obtain ⟨hw, hp⟩ := not_hostTurn ht
  obtain ⟨i, hi⟩ := selected_ne_none hp
  rw [step_selected hw hi] at h
  obtain rfl | rfl | ⟨k, -, ⟨-, rfl⟩ | ⟨-, rfl⟩⟩ := sequencerTurn_cases hw hi h
  · exact (engineOnly_blankFill s).trans (engineOnly_setPhase _ _)
  · exact engineOnly_setPhase s _
  · exact engineOnly_queryPart k s
  · exact (engineOnly_queryPart k s).trans (engineOnly_finishStep k _)

/-- Settles O49: each part of a sequencer step changes the engine's own only, so their composition does. -/
theorem engineWritesOnlyItsOwn : Obligations.EngineWritesOnlyItsOwn := by
  intro s t ht h
  obtain ⟨hregs, hhost, hframe⟩ := step_engineOnly ht h
  exact ⟨hregs, hhost, hframe⟩

/-! ### A host write to STAT -/

/-- In an idle block the three operations that write STAT are the one host write of R37. -/
theorem exec_statWrite {s : State} (hi : s.Idle) {i : Instr} {new : Byte}
    (h : i = .wrreg .stat new ∨ (∃ m, i = .setf .stat m ∧ new = s.regs.stat ||| m) ∨
      (∃ m, i = .clrf .stat m ∧ new = s.regs.stat &&& ~~~m)) :
    exec i s = .next ((s.hostWriteReg .stat new).respond none) := by
  obtain rfl | ⟨m, rfl, rfl⟩ | ⟨m, rfl, rfl⟩ := h <;> exact whenIdle_of_idle hi _ _

/-- Settles O14: by whether the write would change STAT[2:0]. -/
theorem hostWriteToStat : Obligations.HostWriteToStat := by
  intro s i new hidle hi
  refine ⟨_, exec_statWrite hidle hi, ?_, ?_, ?_, fun r hr => hostWriteReg_get_other hr new, ?_⟩
  · by_cases h : engineBits new = engineBits s.regs.stat
    · simp [hostWriteReg_stat_defined h]
    · simp [hostWriteReg_stat_undefined h]
  · exact hostWriteReg_stat_defined
  · intro h
    simp [hostWriteReg_stat_undefined h]
  · rw [hostWriteReg_frame]; rfl

/-! ### Where no mode has been entered -/

/-- No frame is in progress, or RENDER has just started one: no mode is entered yet (R43). -/
structure State.NoMode (s : State) : Prop where
  window : s.window = none
  phase  : s.phase = .wait ∨ s.phase = .start ∧ s.attached = true

/-- There the invariant is the shape of memory and of the sprite buffer. -/
theorem State.NoMode.inv {s : State} (h : s.NoMode) (hm : s.mem.wf) (hs : SpritesOk s.sb) : Inv s where
  memory := hm
  sprites := hs
  position := by obtain hp | ⟨hp, -⟩ := h.phase <;> simp [PositionOk, h.window, hp]
  attached ha := by
    obtain hp | ⟨-, ha'⟩ := h.phase
    · exact ⟨hp, h.window⟩
    · simp [ha] at ha'
  sink hw := absurd h.window hw
  shown m hm := by obtain hp | ⟨hp, -⟩ := h.phase <;> simp [State.shownMode, h.window, hp, modeOfPhase] at hm
  scanned hp' := by obtain hp | ⟨hp, -⟩ := h.phase <;> simp [hp] at hp'

theorem State.NoMode.linesDone_eq {s : State} (h : s.NoMode) : linesDone s = 0 := by
  obtain hp | ⟨hp, -⟩ := h.phase <;> simp [linesDone, h.window, hp]

/-- Settles O57: whatever has just been created is at WAIT, where no mode is entered. -/
theorem invariantAtReset : Obligations.InvariantAtReset := by
  have created : ∀ (p : Config.Params) (n : Nat) (u : PowerUp), u.mem.wf → SpritesOk u.sb →
      Inv (State.created p n u) :=
    fun _ _ _ hm hs => State.NoMode.inv ⟨rfl, .inl rfl⟩ hm hs
  exact ⟨created, created _ _ _ Memory.nil_wf ⟨Nat.zero_le _, List.Pairwise.nil⟩⟩

/-- A host operation on a resting block enters no mode, keeps memory canonical and the sprite buffer as it is. -/
theorem exec_host_noMode {i : Instr} {s t : State} (hh : i.isHost = true) (h : exec i s = .next t)
    (hw : s.window = none) (hp : s.phase = .wait) (hm : s.mem.wf) :
    t.NoMode ∧ t.mem.wf ∧ t.sb = s.sb := by
  have write : ∀ r v, t = (s.hostWriteReg r v).respond none → t.NoMode ∧ t.mem.wf ∧ t.sb = s.sb := by
    rintro r v rfl
    rw [hostWriteReg_frame]
    exact ⟨⟨hw, .inl hp⟩, hm, rfl⟩
  cases i <;> simp only [Instr.isHost, reduceCtorEq] at hh <;> simp only [exec] at h
  case init =>
    obtain ⟨-, -, -, h⟩ := unattached_of_whenUnattached h
    split at h <;> cases h <;> exact ⟨⟨hw, .inl hp⟩, hm, rfl⟩
  case rdreg | rdmem =>
    obtain ⟨-, h⟩ := readable_of_whenReadable h
    cases h; exact ⟨⟨hw, .inl hp⟩, hm, rfl⟩
  case wrreg r v =>
    obtain ⟨-, h⟩ := idle_of_whenIdle h
    cases h; exact write r v rfl
  case setf r m | clrf r m =>
    simp only [execSetf, execClrf] at h
    split at h
    · obtain ⟨-, h⟩ := idle_of_whenIdle h
      cases h; exact write r _ rfl
    · cases h
  case wrmem a v =>
    obtain ⟨-, h⟩ := idle_of_whenIdle h
    cases h; exact ⟨⟨hw, .inl hp⟩, Memory.write_wf hm a.isLt v, rfl⟩
  case ldoam burst =>
    simp only [execLdoam] at h
    split at h
    · next hlen =>
      obtain ⟨-, h⟩ := idle_of_whenIdle h
      cases h
      exact ⟨⟨hw, .inl hp⟩, Memory.writeBytes_wf hm burst (by rw [hlen]; decide), rfl⟩
    · cases h
  case render =>
    obtain ⟨⟨ha, -⟩, h⟩ := idle_of_whenIdle h
    cases h; exact ⟨⟨hw, .inr ⟨rfl, ha⟩⟩, hm, rfl⟩
  case setirq =>
    obtain ⟨-, h⟩ := idle_of_whenIdle h
    cases h; exact ⟨⟨hw, .inl hp⟩, hm, rfl⟩

/-! ### What the query part of a step leaves -/

@[simp] theorem queryPart_attached (k : Interrupted) (s : State) : (queryPart k s).attached = s.attached := by
  rw [queryPart_frame]
@[simp] theorem queryPart_mem (k : Interrupted) (s : State) : (queryPart k s).mem = s.mem := by
  rw [queryPart_frame]
@[simp] theorem queryPart_phase (k : Interrupted) (s : State) : (queryPart k s).phase = s.phase := by
  rw [queryPart_frame]
@[simp] theorem queryPart_sink (k : Interrupted) (s : State) : (queryPart k s).sink = s.sink := by
  rw [queryPart_frame]
@[simp] theorem queryPart_sb (k : Interrupted) (s : State) : (queryPart k s).sb = s.sb := by
  rw [queryPart_frame]
@[simp] theorem queryPart_fb (k : Interrupted) (s : State) : (queryPart k s).fb = s.fb := by
  rw [queryPart_frame]

@[simp] theorem queryPart_lcdc (k : Interrupted) (s : State) : (queryPart k s).regs.lcdc = s.regs.lcdc :=
  (engineOnly_queryPart k s).regs .lcdc (by decide) (by decide)
@[simp] theorem queryPart_lyc (k : Interrupted) (s : State) : (queryPart k s).regs.lyc = s.regs.lyc :=
  (engineOnly_queryPart k s).regs .lyc (by decide) (by decide)
@[simp] theorem queryPart_ly (k : Interrupted) (s : State) : (queryPart k s).regs.ly = k.line s :=
  (queryPart_queried k s).1

/-- A step's mode is shown once its query is over, if it was shown before where the step only polls (R190, R191). -/
theorem queryPart_modeField {k : Interrupted} {s : State}
    (h : k.enters = false → modeField s.regs.stat = modeCode k.mode) :
    modeField (queryPart k s).regs.stat = modeCode k.mode := by
  obtain ⟨-, hmode, -⟩ := queryPart_queried k s
  rw [hmode]
  split
  · rfl
  · next he => exact h (by simpa using he)

theorem queryPart_matchFlag (k : Interrupted) (s : State) :
    matchFlag (queryPart k s).regs.stat = ((queryPart k s).regs.ly == (queryPart k s).regs.lyc) := by
  obtain ⟨-, -, hmatch, -⟩ := queryPart_queried k s
  rw [hmatch, queryPart_ly, queryPart_lyc]

/-! ### In the middle of a step -/

/-- What holds once the query of step `k` is over and the rest of the step is still to come, whether or not a
window is open: the invariant's clauses for a step stopped there (R194, R216). -/
structure QueryDone (k : Interrupted) (s : State) : Prop where
  memory   : s.mem.wf
  sprites  : SpritesOk s.sb
  position : PositionOk (some k) s.phase s.regs.ly
  attached : s.attached = true
  enabled  : lcdEn s.regs.lcdc = true
  mode     : modeField s.regs.stat = modeCode k.mode
  matched  : matchFlag s.regs.stat = (s.regs.ly == s.regs.lyc)
  scanned  : s.phase = .oam ∨ s.phase = .xfer → s.sb = scan s.mem s.regs.ly.toNat (objSize s.regs.lcdc)

/-- A frame is in progress on an attached block only (R130). -/
theorem Inv.attached_of_frame {s : State} (h : Inv s) (hf : s.phase ≠ .wait ∨ s.window ≠ none) :
    s.attached = true := by
  by_contra ha
  obtain ⟨hp, hw⟩ := h.attached (by simpa using ha)
  obtain hf | hf := hf <;> contradiction

/-- An open window stops a step whose query is over; closing it changes nothing of that. -/
theorem Inv.queryDone_closed {s : State} (h : Inv s) {k : Interrupted} (hw : s.window = some k)
    (q : List HostInput) : QueryDone k { s with inbox := q, window := none } := by
  obtain ⟨hen, hmode, hmatch⟩ := h.shown k.mode (by simp [State.shownMode, hw])
  exact {
    memory := h.memory
    sprites := h.sprites
    position := hw ▸ h.position
    attached := h.attached_of_frame (.inr (by simp [hw]))
    enabled := hen
    mode := hmode
    matched := hmatch
    scanned := h.scanned }

/-- With the window open and a sink installed, the middle of a step meets the invariant. -/
theorem QueryDone.inv {k : Interrupted} {s : State} (h : QueryDone k s) (hw : s.window = some k)
    (hs : s.sink = true) : Inv s where
  memory := h.memory
  sprites := h.sprites
  position := hw ▸ h.position
  attached ha := by simp [h.attached] at ha
  sink _ := hs
  shown m hm := by
    obtain rfl : k.mode = m := by simpa [State.shownMode, hw] using hm
    exact ⟨h.enabled, h.mode, h.matched⟩
  scanned := h.scanned

/-- The position a step is selected at is never WAIT. -/
theorem Interrupted.SelectsAt.phase_ne_wait {k : Interrupted} {s : State} (h : k.SelectsAt s) :
    s.phase ≠ .wait := by
  cases k <;> simp_all [Interrupted.SelectsAt]

/-- The display is enabled where a step is selected (R86, R204). -/
theorem Inv.enabled_of_selectsAt {s : State} (h : Inv s) (hw : s.window = none) {k : Interrupted}
    (hk : k.SelectsAt s) : lcdEn s.regs.lcdc = true := by
  have shown : ∀ m, modeOfPhase s.phase = some m → lcdEn s.regs.lcdc = true :=
    fun m hm => (h.shown m (by simpa [State.shownMode, hw] using hm)).1
  cases k with
  | sqBegin => exact hk.2
  | sqXfer | sqHbl => exact shown _ (by rw [show s.phase = _ from hk]; rfl)
  | sqLine | sqVbl | sqVline => exact shown _ (by rw [hk.1]; rfl)

/-- The only step that does not enter its mode is selected where the mode is shown already (R200). -/
theorem Inv.mode_of_poll {s : State} (h : Inv s) (hw : s.window = none) {k : Interrupted}
    (hk : k.SelectsAt s) (he : k.enters = false) : modeField s.regs.stat = modeCode k.mode := by
  cases k <;> simp only [Interrupted.enters, reduceCtorEq] at he
  obtain ⟨hp, -⟩ := hk
  obtain ⟨-, hmode, -⟩ := h.shown .vbl (by simp [State.shownMode, hw, hp, modeOfPhase])
  exact hmode

/-- LY as a step writes it fits the position inside the step (R192, R195 to R200). -/
theorem Inv.position_line {s : State} (h : Inv s) (hw : s.window = none) {k : Interrupted}
    (hk : k.SelectsAt s) : PositionOk (some k) s.phase (k.line s) := by
  have hpos := h.position
  rw [hw] at hpos
  cases k with
  | sqBegin => exact ⟨hk.1, rfl⟩
  | sqXfer => rw [show s.phase = _ from hk] at hpos; exact ⟨hk, hpos⟩
  | sqHbl => rw [show s.phase = _ from hk] at hpos; exact ⟨hk, hpos⟩
  | sqLine =>
    obtain ⟨hp, hne⟩ := hk
    rw [hp] at hpos
    simp only [PositionOk, Interrupted.line] at hpos ⊢
    exact ⟨hp, by bv_omega, by bv_omega⟩
  | sqVbl => exact ⟨hk.1, rfl⟩
  | sqVline =>
    obtain ⟨hp, hne⟩ := hk
    rw [hp] at hpos
    simp only [PositionOk, Interrupted.line] at hpos ⊢
    exact ⟨hp, by bv_omega, by bv_omega⟩

/-- A step selected at OAM or XFER does not move LY (R196, R197). -/
theorem Interrupted.SelectsAt.line_eq {k : Interrupted} {s : State} (hk : k.SelectsAt s)
    (hp : s.phase = .oam ∨ s.phase = .xfer) : k.line s = s.regs.ly := by
  cases k <;> simp_all [Interrupted.SelectsAt, Interrupted.line]

/-- From the invariant, the query part of the selected step. -/
theorem Inv.queryDone_queryPart {s : State} (h : Inv s) (hw : s.window = none) {k : Interrupted}
    (hk : k.SelectsAt s) : QueryDone k (queryPart k s) where
  memory := by simpa using h.memory
  sprites := by simpa using h.sprites
  position := by simpa using h.position_line hw hk
  attached := by simpa using h.attached_of_frame (.inl hk.phase_ne_wait)
  enabled := by simpa using h.enabled_of_selectsAt hw hk
  mode := queryPart_modeField (h.mode_of_poll hw hk)
  matched := queryPart_matchFlag k s
  scanned hp := by
    rw [queryPart_phase] at hp
    simpa [hk.line_eq hp] using h.scanned hp

/-- A finished step is at its mode's own phase (R195 to R200). -/
theorem QueryDone.modeOfPhase_finishStep {k : Interrupted} {s : State} (h : QueryDone k s) :
    modeOfPhase (finishStep k s).phase = some k.mode := by
  rw [finishStep_phase]
  cases k with
  | sqVline => simp only [h.position.1]; rfl
  | _ => rfl

theorem QueryDone.position_finishStep {k : Interrupted} {s : State} (h : QueryDone k s) :
    PositionOk none (finishStep k s).phase s.regs.ly := by
  have hpos := h.position
  rw [finishStep_phase]
  cases k <;> simp only [PositionOk] at hpos ⊢
  case sqVline => simp only [hpos.1]; omega
  all_goals omega

theorem QueryDone.sprites_finishStep {k : Interrupted} {s : State} (h : QueryDone k s) :
    SpritesOk (finishStep k s).sb := by
  rw [finishStep_sb]
  cases k with
  | sqBegin | sqLine => exact ⟨scan_length_le _ _ _, scan_pairwise _ _ _⟩
  | sqXfer | sqHbl | sqVbl | sqVline => exact h.sprites

/-- A step that ends at OAM has scanned LY; SQ_XFER keeps the scan it found (R195, R196, R198). -/
theorem QueryDone.scanned_finishStep {k : Interrupted} {s : State} (h : QueryDone k s)
    (hp : (finishStep k s).phase = .oam ∨ (finishStep k s).phase = .xfer) :
    (finishStep k s).sb = scan s.mem s.regs.ly.toNat (objSize s.regs.lcdc) := by
  have hpos := h.position
  rw [finishStep_phase] at hp
  rw [finishStep_sb]
  cases k with
  | sqBegin => simp only [hpos.2]
  | sqLine => rfl
  | sqXfer => exact h.scanned (.inl hpos.1)
  | sqHbl | sqVbl => simp at hp
  | sqVline => simp [hpos.1] at hp

/-- The rest of a step leads from its middle back to the invariant. -/
theorem QueryDone.inv_finishStep {k : Interrupted} {s : State} (h : QueryDone k s) (hw : s.window = none) :
    Inv (finishStep k s) where
  memory := by simpa using h.memory
  sprites := h.sprites_finishStep
  position := by simpa [hw] using h.position_finishStep
  attached ha := by simp [h.attached] at ha
  sink h' := absurd ((finishStep_window k s).trans hw) h'
  shown m hm := by
    obtain rfl : k.mode = m := by
      simpa [State.shownMode, hw, h.modeOfPhase_finishStep] using hm
    simpa using ⟨h.enabled, h.mode, h.matched⟩
  scanned hp := by simpa using h.scanned_finishStep hp

/-! ### The invariant -/

/-- What one step can do from a state that meets the invariant: move only what the host port of the model holds, end
or stay where no mode is entered, finish the step a window stopped, or take the selected step. -/
theorem Inv.step_cases {s t : State} (hi : Inv s) (h : step s = .next t) :
    (∃ q r, t = { s with inbox := q, response := r }) ∨
    (t.NoMode ∧ t.mem.wf ∧ SpritesOk t.sb) ∨
    (∃ k q, s.window = some k ∧ t = finishStep k { s with inbox := q, window := none }) ∨
    (s.window = none ∧ ∃ k : Interrupted, k.SelectsAt s ∧
      ((k.delivered s = true ∧ t = queryPart k s) ∨
        (k.delivered s = false ∧ t = finishStep k (queryPart k s)))) := by
  obtain ⟨-, -, rfl⟩ | ⟨-, w, d, rest, i, -, -, hh, he⟩ | ⟨k, q, hk, -, rfl⟩ | ⟨-, -, rest, -, rfl⟩ |
    ⟨-, ha, n, cs, rest, -, rfl⟩ | ⟨hw, -, i, hsel, he⟩ := Machine.step_cases h
  · exact .inl ⟨_, _, rfl⟩
  · obtain ⟨hw, hp⟩ | ⟨r, rfl⟩ := host_cases hh he
    · obtain ⟨hn, hm, hsb⟩ := exec_host_noMode hh he hw hp hi.memory
      exact .inr (.inl ⟨hn, hm, hsb ▸ hi.sprites⟩)
    · exact .inl ⟨_, _, rfl⟩
  · exact .inr (.inr (.inl ⟨k, q, hk, rfl⟩))
  · exact .inl ⟨_, _, rfl⟩
  · obtain ⟨hp, hw⟩ := hi.attached ha
    exact .inr (.inl ⟨⟨hw, .inl hp⟩, Memory.ofCells_wf cs Memory.nil_wf, hi.sprites⟩)
  · obtain rfl | rfl | hk := sequencerTurn_cases hw hsel he
    · exact .inr (.inl ⟨⟨hw, .inl rfl⟩, hi.memory, hi.sprites⟩)
    · exact .inr (.inl ⟨⟨hw, .inl rfl⟩, hi.memory, hi.sprites⟩)
    · exact .inr (.inr (.inr ⟨hw, hk⟩))

/-- The invariant does not look at what the host port holds. -/
theorem Inv.hostPort {s : State} (h : Inv s) (q : List HostInput) (r : Option Response) :
    Inv { s with inbox := q, response := r } :=
  ⟨h.memory, h.sprites, h.position, h.attached, h.sink, h.shown, h.scanned⟩

/-- Settles O56: a step that queries the tracker goes through its middle (`QueryDone`), at a window or at once. -/
theorem invariantKept : Obligations.InvariantKept := by
  intro s t hi h
  obtain ⟨q, r, rfl⟩ | ⟨hn, hm, hsb⟩ | ⟨k, q, hk, rfl⟩ | ⟨hw, k, hk, ⟨hd, rfl⟩ | ⟨hd, rfl⟩⟩ := hi.step_cases h
  · exact hi.hostPort q r
  · exact hn.inv hm hsb
  · exact (hi.queryDone_closed hk q).inv_finishStep rfl
  · have hsink : s.sink = true := by
      rw [Interrupted.delivered, Bool.and_eq_true] at hd; exact hd.2
    exact (hi.queryDone_queryPart hw hk).inv (by rw [queryPart_window, hd]; rfl) (by simpa using hsink)
  · exact (hi.queryDone_queryPart hw hk).inv_finishStep (by rw [queryPart_window, hd]; exact hw)

/-! ### The progress of a frame -/

/-- How many lines are in the frame buffer in the middle of step `k`. -/
def Interrupted.linesDone (k : Interrupted) (s : State) : Nat :=
  Machine.linesDone { s with window := some k }

theorem frameProgress_iff (s : State) : FrameProgress s ↔ Drawn s s (linesDone s) := Iff.rfl

/-- What is drawn stays drawn under changes of the engine's own that leave the frame buffer alone. -/
theorem Drawn.engineOnly {s t : State} {n : Nat} (h : Drawn s s n) (he : EngineOnly s t)
    (hfb : t.fb = s.fb) : Drawn t t n := by
  intro l hl hn
  simp only [hfb, he.frameLine_eq]
  exact h l hl hn

/-- The query part of the selected step draws nothing, and its middle counts the lines the position counts. -/
theorem Inv.linesDone_queryPart {s : State} (h : Inv s) (hw : s.window = none) {k : Interrupted}
    (hk : k.SelectsAt s) : k.linesDone (queryPart k s) = linesDone s := by
  have hpos := h.position
  rw [hw] at hpos
  cases k <;> simp only [Interrupted.SelectsAt] at hk <;>
    simp only [Interrupted.linesDone, linesDone, queryPart_ly, Interrupted.line, hw, hk]
  case sqLine =>
    obtain ⟨hp, hne⟩ := hk
    rw [hp] at hpos
    simp only [PositionOk] at hpos
    bv_omega
  case sqVbl => rfl

/-- SQ_XFER draws line LY, no other step draws (R196). -/
theorem QueryDone.linesDone_finishStep {k : Interrupted} {s : State} (h : QueryDone k s)
    (hw : s.window = none) : linesDone (finishStep k s) =
      if k = .sqXfer then s.regs.ly.toNat + 1 else k.linesDone s := by
  have hpos := h.position
  unfold linesDone Interrupted.linesDone
  rw [finishStep_window, hw, finishStep_phase, finishStep_regs]
  cases k <;> simp_all [PositionOk, linesDone]

/-- A line composed with its own scan in the sprite buffer is the frame's (R183). -/
theorem lineOf_eq_frameLine {s : State} {l : Nat} (h : s.sb = scan s.mem l (objSize s.regs.lcdc)) :
    lineOf s l = frameLine s l := by
  unfold frameLine
  rw [← h]

/-- The rest of a step keeps what is drawn, and SQ_XFER adds line LY. -/
theorem QueryDone.drawn_finishStep {k : Interrupted} {s : State} (h : QueryDone k s) (hw : s.window = none)
    (hd : Drawn s s (k.linesDone s)) : FrameProgress (finishStep k s) := by
  rw [frameProgress_iff, h.linesDone_finishStep hw]
  have he := engineOnly_finishStep k s
  split
  · next hk =>
    subst hk
    intro l hl hn
    have hline := lineOf_eq_frameLine (h.scanned (.inl h.position.1))
    rw [he.frameLine_eq]
    simp only [finishStep_fb, Vector.getElem_setIfInBounds]
    split
    · next heq => rw [← heq, hline]
    · exact hd l hl (by simp only [Interrupted.linesDone, linesDone]; omega)
  · next hk =>
    refine hd.engineOnly he ?_
    rw [finishStep_fb]
    cases k with
    | sqXfer => exact absurd rfl hk
    | _ => rfl

/-- From the progress of the frame, the query part of the selected step. -/
theorem FrameProgress.drawn_queryPart {s : State} (h : FrameProgress s) (hi : Inv s) (hw : s.window = none)
    {k : Interrupted} (hk : k.SelectsAt s) :
    Drawn (queryPart k s) (queryPart k s) (k.linesDone (queryPart k s)) := by
  rw [hi.linesDone_queryPart hw hk]
  exact Drawn.engineOnly h (engineOnly_queryPart k s) (queryPart_fb k s)

/-- A step keeps the progress of the frame, by the cases of `Inv.step_cases`. -/
theorem frameProgress_step {s t : State} (hi : Inv s) (hf : FrameProgress s) (h : step s = .next t) :
    FrameProgress t := by
  obtain ⟨q, r, rfl⟩ | ⟨hn, -, -⟩ | ⟨k, q, hk, rfl⟩ | ⟨hw, k, hk, ⟨hd, rfl⟩ | ⟨hd, rfl⟩⟩ := hi.step_cases h
  · exact hf
  · intro l _ hl
    simp [hn.linesDone_eq] at hl
  · refine (hi.queryDone_closed hk q).drawn_finishStep rfl ?_
    rw [frameProgress_iff] at hf
    have e : linesDone s = k.linesDone { s with inbox := q, window := none } := by
      simp only [Interrupted.linesDone, linesDone, hk]
    exact e ▸ hf
  · have e : linesDone (queryPart k s) = k.linesDone (queryPart k s) := by
      simp only [Interrupted.linesDone, linesDone, queryPart_window, hd, if_true]
    rw [frameProgress_iff, e]
    exact hf.drawn_queryPart hi hw hk
  · exact (hi.queryDone_queryPart hw hk).drawn_finishStep (by rw [queryPart_window, hd]; exact hw)
      (hf.drawn_queryPart hi hw hk)

/-- Settles O58: each step by `frameProgress_step`, and SQ_END finds all 144 lines drawn. -/
theorem frameProgressKept : Obligations.FrameProgressKept := by
  refine ⟨fun s t hi hf h => frameProgress_step hi hf h, fun s _ hf hw hp hly => ?_⟩
  have hsel : selected s = some .sqEnd := by simp [selected, hp, hly]
  refine ⟨s.setPhase .wait, step_selected hw hsel, rfl, fun l hl => hf l hl ?_⟩
  simp only [linesDone, hw, hp]
  exact hl

end Sys2Proof.Machine
end

section
/-! PROOFS. Memory: what the canonical form makes equal (R71, R86), and the part of memory that the pixels and the
scan look at (R82). -/

namespace Sys2Proof.Machine

/-! ### The canonical form -/

theorem Memory.read_cons_same (k : Nat) (w : Byte) (m : Memory) : Memory.read ((k, w) :: m) k = w := by
  simp [Memory.read]

theorem Memory.read_cons_other {k a : Nat} (h : a ≠ k) (w : Byte) (m : Memory) :
    Memory.read ((k, w) :: m) a = m.read a := by
  simp [Memory.read, Ne.symm h]

/-- The first entry of a canonical memory is a listed byte, below every entry of the canonical rest. -/
theorem Memory.wf_cons {k : Nat} {w : Byte} {m : Memory} (h : Memory.wf ((k, w) :: m)) :
    w ≠ Memory.unlisted ∧ (∀ c ∈ m, k < c.1) ∧ m.wf := by
  obtain ⟨hord, hall⟩ := h
  obtain ⟨hlt, hord'⟩ := List.pairwise_cons.mp hord
  obtain ⟨⟨-, hw⟩, hall'⟩ := List.forall_mem_cons.mp hall
  exact ⟨hw, hlt, hord', hall'⟩

/-- The first address of a canonical memory that reads as another one does is not below the other's first. -/
theorem Memory.first_le_of_read_eq {k k' : Nat} {w w' : Byte} {m m' : Memory} (hm : Memory.wf ((k, w) :: m))
    (hm' : Memory.wf ((k', w') :: m'))
    (h : ∀ a, Memory.read ((k, w) :: m) a = Memory.read ((k', w') :: m') a) : k' ≤ k := by
  refine Nat.le_of_not_lt fun hlt => ?_
  obtain ⟨hw, -⟩ := Memory.wf_cons hm
  obtain ⟨-, hbelow, -⟩ := Memory.wf_cons hm'
  refine hw ?_
  calc w = Memory.read ((k', w') :: m') k := by rw [← h k, Memory.read_cons_same]
    _ = Memory.unlisted :=
      Memory.read_of_lt (List.forall_mem_cons.mpr ⟨hlt, fun c hc => hlt.trans (hbelow c hc)⟩)

/-- A canonical memory with an entry does not read as the empty one. -/
theorem Memory.not_read_nil_eq {k : Nat} {w : Byte} {m : Memory} (hm : Memory.wf ((k, w) :: m)) :
    ¬ ∀ a, Memory.read ((k, w) :: m) a = Memory.read [] a := by
  intro h
  obtain ⟨hw, -⟩ := Memory.wf_cons hm
  exact hw ((Memory.read_cons_same k w m).symm.trans (h k))

/-- Canonical memories with equal contents are equal data. -/
theorem Memory.eq_of_read_eq {m m' : Memory} (hm : m.wf) (hm' : m'.wf) (h : ∀ a, m.read a = m'.read a) :
    m = m' := by
  induction m generalizing m' with
  | nil =>
    cases m' with
    | nil => rfl
    | cons c' m' => exact absurd (fun a => (h a).symm) (Memory.not_read_nil_eq hm')
  | cons c m ih =>
    cases m' with
    | nil => exact absurd h (Memory.not_read_nil_eq hm)
    | cons c' m' =>
      obtain ⟨k, w⟩ := c
      obtain ⟨k', w'⟩ := c'
      obtain rfl : k = k' := Nat.le_antisymm (Memory.first_le_of_read_eq hm' hm fun a => (h a).symm)
        (Memory.first_le_of_read_eq hm hm' h)
      obtain rfl : w = w' := by simpa only [Memory.read_cons_same] using h k
      obtain ⟨-, hlt, hrest⟩ := Memory.wf_cons hm
      obtain ⟨-, hlt', hrest'⟩ := Memory.wf_cons hm'
      have hread : ∀ a, Memory.read m a = Memory.read m' a := by
        intro a
        by_cases ha : a = k
        · rw [ha, Memory.read_of_lt hlt, Memory.read_of_lt hlt']
        · simpa only [Memory.read_cons_other ha] using h a
      rw [ih hrest hrest' hread]

/-- Settles O21: the laws of one write, uniqueness by the first entry of the two lists, and the form kept by WRMEM's
one write, LDOAM's 160 and the offered buffer's. -/
theorem memoryLaws : Obligations.MemoryLaws := by
  refine ⟨fun m a b v hm => Memory.read_write hm.1 a v b, fun m m' => Memory.eq_of_read_eq,
    fun m a v hm => Memory.write_wf hm a.isLt v, fun m d hm hd => Memory.writeBytes_wf hm d ?_,
    fun cs => Memory.ofCells_wf cs Memory.nil_wf⟩
  rw [hd]
  decide

/-! ### The read set -/

/-- `m'` holds what the memory of `s` holds on the read set of the block: the object table, the two selected maps,
the tiles of the sprites, and the tiles of the layers in the selected addressing mode (R82). -/
structure ReadSetAgrees (s : State) (m' : Memory) : Prop where
  object : ∀ n < Config.oamBytes, m'.read (Config.offOam + n) = s.mem.read (Config.offOam + n)
  bgMap : ∀ n < 1024, m'.read (mapBase (bgMap s.regs.lcdc) + n) = s.mem.read (mapBase (bgMap s.regs.lcdc) + n)
  winMap : ∀ n < 1024, m'.read (mapBase (winMap s.regs.lcdc) + n) = s.mem.read (mapBase (winMap s.regs.lcdc) + n)
  spriteTile : ∀ n < 4096, m'.read (Config.offTile + n) = s.mem.read (Config.offTile + n)
  layerTile : ∀ n < 4096, m'.read (tileBase s.cfg (layerAddressing s.regs.lcdc) + n) =
    s.mem.read (tileBase s.cfg (layerAddressing s.regs.lcdc) + n)

section
variable {s : State} {m' : Memory}

/-! #### Objects and the scan -/

/-- The bytes of a record are inside the object table, so they agree (R77). -/
theorem ReadSetAgrees.read_objAddress (h : ReadSetAgrees s m') (i : Fin 40) {k : Nat} (hk : k < 4) :
    m'.read (objAddress i k) = s.mem.read (objAddress i k) := by
  have hin : Config.oamRec * i.val + k < Config.oamBytes := by
    simp only [Config.oamRec, Config.oamBytes]; omega
  simpa only [objAddress, Nat.add_assoc] using h.object _ hin

theorem ReadSetAgrees.objY_eq (h : ReadSetAgrees s m') (i : Fin 40) :
    objY m' i = objY s.mem i := h.read_objAddress i (by decide)
theorem ReadSetAgrees.objX_eq (h : ReadSetAgrees s m') (i : Fin 40) :
    objX m' i = objX s.mem i := h.read_objAddress i (by decide)
theorem ReadSetAgrees.objTile_eq (h : ReadSetAgrees s m') (i : Fin 40) :
    objTile m' i = objTile s.mem i := h.read_objAddress i (by decide)
theorem ReadSetAgrees.objFlags_eq (h : ReadSetAgrees s m') (i : Fin 40) :
    objFlags m' i = objFlags s.mem i := h.read_objAddress i (by decide)

/-- The scan looks at the stored y of the records only (R160, R161). -/
theorem scan_congr {m m' : Memory} (h : ∀ i, objY m' i = objY m i) (line : Nat) (size16 : Bool) :
    scan m' line size16 = scan m line size16 := by
  have hsel : selectable m' line size16 = selectable m line size16 := by
    funext i
    simp only [selectable, h]
  simp only [scan, hsel]

/-! #### Tiles -/

/-- Both plane bytes of a tile row are among the 4096 bytes from the tile base on (R151, R152). -/
theorem rowAddress_eq_add (base : Nat) (mode : Addressing) (tile : Byte) (row : TileCoord) :
    ∃ n, n + 1 < 4096 ∧ rowAddress base mode tile row = base + n := by
  have htile := (effectiveTile mode tile).isLt
  have hrow := row.isLt
  exact ⟨Config.tileBytes * (effectiveTile mode tile).toNat + 2 * row.toNat,
    by simp only [Config.tileBytes]; omega, by simp only [rowAddress, Nat.add_assoc]⟩

theorem decodeRow_congr {m m' : Memory} {base : Nat} (h : ∀ n < 4096, m'.read (base + n) = m.read (base + n))
    (mode : Addressing) (tile : Byte) (row : TileCoord) :
    decodeRow m' base mode tile row = decodeRow m base mode tile row := by
  obtain ⟨n, hn, haddr⟩ := rowAddress_eq_add base mode tile row
  simp only [decodeRow, haddr, h n (by omega), Nat.add_assoc, h (n + 1) hn]

/-! #### Background and window -/

/-- A layer's pixel looks at one of the 1024 entries of its map and at one row of a tile (R174). -/
theorem ReadSetAgrees.layerIndex_eq (h : ReadSetAgrees s m') {map : Nat}
    (hmap : ∀ n < 1024, m'.read (map + n) = s.mem.read (map + n)) {px py : Nat} (hx : px < 256) (hy : py < 256) :
    layerIndex { s with mem := m' } map px py = layerIndex s map px py := by
  have hentry : m'.read (map + Config.mapDim * (py / 8) + px / 8) =
      s.mem.read (map + Config.mapDim * (py / 8) + px / 8) := by
    rw [Nat.add_assoc]
    exact hmap _ (by simp only [Config.mapDim]; omega)
  simp only [layerIndex, hentry, decodeRow_congr h.layerTile]

/-- The window coordinates of a screen pixel are below 256 (R171). -/
theorem ReadSetAgrees.windowIndex_eq (h : ReadSetAgrees s m') {line col : Nat}
    (hl : line < 144) (hc : col < 160) :
    windowIndex { s with mem := m' } line col = windowIndex s line col := by
  have hx : ((col : Int) - windowLeft s).toNat < 256 := by
    simp only [windowLeft, Config.wxOfs]; omega
  exact h.layerIndex_eq h.winMap hx (by omega)

theorem ReadSetAgrees.backgroundIndex_eq (h : ReadSetAgrees s m') (line col : Nat) :
    backgroundIndex { s with mem := m' } line col = backgroundIndex s line col :=
  h.layerIndex_eq h.bgMap (Nat.mod_lt _ (by decide)) (Nat.mod_lt _ (by decide))

theorem ReadSetAgrees.bgwinIndex_eq (h : ReadSetAgrees s m') {line col : Nat}
    (hl : line < 144) (hc : col < 160) :
    bgwinIndex { s with mem := m' } line col = bgwinIndex s line col := by
  have hcovers : windowCovers { s with mem := m' } line col = windowCovers s line col := rfl
  simp only [bgwinIndex, hcovers, h.windowIndex_eq hl hc, h.backgroundIndex_eq]

/-! #### Sprites -/

theorem ReadSetAgrees.hitRow_eq (h : ReadSetAgrees s m') (i : Fin 40) (line : Nat) :
    hitRow m' i line = hitRow s.mem i line := by
  simp only [hitRow, h.objY_eq]

theorem ReadSetAgrees.spriteColumn_eq (h : ReadSetAgrees s m') (i : Fin 40) (col : Nat) :
    spriteColumn m' i col = spriteColumn s.mem i col := by
  simp only [spriteColumn, h.objX_eq]

theorem ReadSetAgrees.spriteRow_eq (h : ReadSetAgrees s m') (i : Fin 40) (line : Nat)
    (size16 : Bool) : spriteRow m' i line size16 = spriteRow s.mem i line size16 := by
  unfold spriteRow
  rw [h.hitRow_eq, h.objTile_eq]

theorem ReadSetAgrees.spriteIndex_eq (h : ReadSetAgrees s m') (i : Fin 40)
    (line col : Nat) : spriteIndex { s with mem := m' } i line col = spriteIndex s i line col := by
  unfold spriteIndex
  rw [h.spriteColumn_eq, h.objFlags_eq, h.spriteRow_eq]
  simp only [decodeRow_congr h.spriteTile]

theorem ReadSetAgrees.drawSprite_eq (h : ReadSetAgrees s m') (line col : Nat) :
    drawSprite { s with mem := m' } line col = drawSprite s line col := by
  funext bgidx i p
  unfold drawSprite heldBack
  rw [h.spriteIndex_eq, h.objFlags_eq]

/-! #### The pixel -/

theorem ReadSetAgrees.resolve_eq (h : ReadSetAgrees s m') {line col : Nat}
    (hl : line < 144) (hc : col < 160) : resolve { s with mem := m' } line col = resolve s line col := by
  simp only [resolve, drawSprites, h.bgwinIndex_eq hl hc, h.drawSprite_eq]

theorem ReadSetAgrees.pixel_eq (h : ReadSetAgrees s m') {line col : Nat}
    (hl : line < 144) (hc : col < 160) : pixel { s with mem := m' } line col = pixel s line col := by
  simp only [pixel, h.resolve_eq hl hc]

end

/-- Settles O35: every address a pixel or a scan reads is one of those the two memories agree on. -/
theorem pixelReadSet : Obligations.PixelReadSet := by
  intro s m' line col hl hc hagree
  have h : ReadSetAgrees s m' := {
    object := fun n hn => (hagree _ (.inl (by simp only [Config.offOam, Config.oamBytes] at hn ⊢; omega))).symm
    bgMap := fun n hn => (hagree _ (.inr (.inl (by omega)))).symm
    winMap := fun n hn => (hagree _ (.inr (.inr (.inl (by omega))))).symm
    spriteTile := fun n hn =>
      (hagree _ (.inr (.inr (.inr (.inl (by simp only [Config.offTile]; omega)))))).symm
    layerTile := fun n hn => by
      refine (hagree _ (.inr (.inr (.inr ?_)))).symm
      cases hmode : tileData s.regs.lcdc with
      | true =>
        simp only [layerAddressing, hmode, if_true, tileBase, Config.offTile]
        exact .inl (by omega)
      | false =>
        simp only [layerAddressing, hmode, Bool.false_eq_true, if_false, tileBase]
        exact .inr ⟨trivial, by omega⟩ }
  exact ⟨h.pixel_eq hl hc, scan_congr h.objY_eq line _⟩

end Sys2Proof.Machine
end

section
/-! PROOFS. The two directions of the encoding (R102 to R108, R116): a row's words are those its mask leaves free, the
operands read from one name one operation, and what the host port does with a word that decodes to none. -/

namespace Sys2Proof

/-! ### A word its row accepts -/

/-- Such a word decodes as its operands do, once the burst has the right length (R104, R116). -/
theorem decodeHost_of_accepts {op : HostOp} {w : CommandWord} (h : op.accepts w = true) (d : List Byte) :
    decodeHost w d = readOperands w d op >>= checkBurst d := by
  simp only [decodeHost, fieldOp_of_accepts h, ofOpcode_opcode, h, if_true]
  cases readOperands w d op <;> rfl

/-- A word that no row accepts is reserved (R111). -/
theorem decodeHost_of_no_row {w : CommandWord} (h : ∀ op : HostOp, op.accepts w = false) (d : List Byte) :
    decodeHost w d = .error .reservedEncoding := by
  simp only [decodeHost, h, Bool.false_eq_true, if_false]
  cases HostOp.ofOpcode (fieldOp w) <;> rfl

theorem checkBurst_of_length {d : List Byte} {i : Instr} (h : d.length = i.burstLength) :
    checkBurst d i = .ok i := if_pos h

theorem checkBurst_of_other_length {d : List Byte} {i : Instr} (h : d.length ≠ i.burstLength) :
    checkBurst d i = .error .badBurst := if_neg h

theorem of_checkBurst_eq_ok {d : List Byte} {i j : Instr} (h : checkBurst d j = .ok i) :
    j = i ∧ d.length = i.burstLength := by
  by_cases hd : d.length = j.burstLength
  · cases (checkBurst_of_length hd).symm.trans h
    exact ⟨rfl, hd⟩
  · cases (checkBurst_of_other_length hd).symm.trans h

/-- What decodes is a row's word, with its operands and a burst of its length. -/
theorem decodeHost_eq_ok_iff {w : CommandWord} {d : List Byte} {i : Instr} :
    decodeHost w d = .ok i ↔
      ∃ op : HostOp, op.accepts w = true ∧ readOperands w d op = .ok i ∧ d.length = i.burstLength := by
  constructor
  · intro h
    by_cases hrow : ∃ op : HostOp, op.accepts w = true
    · obtain ⟨op, ha⟩ := hrow
      rw [decodeHost_of_accepts ha] at h
      cases hr : readOperands w d op with
      | error e => rw [hr] at h; cases h
      | ok j =>
        rw [hr] at h
        obtain ⟨rfl, hd⟩ := of_checkBurst_eq_ok h
        exact ⟨op, ha, hr, hd⟩
    · have hnone : ∀ op : HostOp, op.accepts w = false := by simpa using hrow
      cases (decodeHost_of_no_row hnone d).symm.trans h
  · rintro ⟨op, ha, hr, hd⟩
    rw [decodeHost_of_accepts ha, hr]
    exact checkBurst_of_length hd

/-! ### Register operands (R113) -/

theorem ofNumber_eq_some_iff {n : BitVec 4} {r : Reg} : Reg.ofNumber n = some r ↔ r.number = n :=
  ⟨number_of_ofNumber, fun h => h ▸ ofNumber_number r⟩

theorem regOperand_eq_ok_iff {w : CommandWord} {k : Reg → Instr} {i : Instr} :
    regOperand w k = .ok i ↔ ∃ r, r.number = fieldReg w ∧ k r = i := by
  simp only [regOperand, ← ofNumber_eq_some_iff]
  cases Reg.ofNumber (fieldReg w) <;> simp

theorem flagRegOperand_eq_ok_iff {w : CommandWord} {k : Reg → Instr} {i : Instr} :
    flagRegOperand w k = .ok i ↔ ∃ r, r.number = fieldReg w ∧ r.isFlagReg = true ∧ k r = i := by
  simp only [flagRegOperand, ← ofNumber_eq_some_iff]
  cases Reg.ofNumber (fieldReg w) with
  | none => simp
  | some r => cases h : r.isFlagReg <;> simp [h]

/-! ### Decoding what was encoded -/

/-- A word whose payload leaves the must-be-zero bits clear decodes to the operation its fields name. -/
theorem decode_hostWord {op : HostOp} {w : CommandWord} {p : BitVec 32} {d : List Byte} {i : Instr}
    (hw : w = hostWord op p) (hp : p &&& op.payloadMask = 0) (hr : readOperands w d op = .ok i)
    (hd : d.length = i.burstLength) : decode (.host w d) = .ok i := by
  have ha : op.accepts w = true := by rw [hw, accepts_hostWord, hp]; rfl
  exact decodeHost_eq_ok_iff.mpr ⟨op, ha, hr, hd⟩

theorem regOperand_encodeHR (op : HostOp) (r : Reg) (v : Byte) (k : Reg → Instr) :
    regOperand (encodeHR op r v) k = .ok (k r) :=
  regOperand_eq_ok_iff.mpr ⟨r, (fieldReg_encodeHR op r v).symm, rfl⟩

theorem flagRegOperand_encodeHR (op : HostOp) {r : Reg} (hr : r.isFlagReg = true) (v : Byte) (k : Reg → Instr) :
    flagRegOperand (encodeHR op r v) k = .ok (k r) :=
  flagRegOperand_eq_ok_iff.mpr ⟨r, (fieldReg_encodeHR op r v).symm, hr, rfl⟩

theorem payloadHR_clear_read (r : Reg) : (0#20 ++ r.number ++ 0#8 : BitVec 32) &&& 0xFFFFF0FF#32 = 0 := by
  cases r <;> decide

/-- Settles O1: for a host operation by the operands its format writes and reads back, for a sequencer step by the
map of R108. -/
theorem decodeEncodeRoundTrip : Obligations.DecodeEncodeRoundTrip := by
  intro i hwf
  cases i with
  | init => exact decode_hostWord rfl (by decide) rfl rfl
  | rdreg r =>
    exact decode_hostWord rfl (payloadHR_clear_read r) (by simp only [readOperands, regOperand_encodeHR]) rfl
  | wrreg r v =>
    exact decode_hostWord rfl (payloadHR_clear r v)
      (by simp only [readOperands, regOperand_encodeHR, fieldVal_encodeHR]) rfl
  | setf r m | clrf r m =>
    exact decode_hostWord rfl (payloadHR_clear r m)
      (by simp only [readOperands, flagRegOperand_encodeHR _ hwf, fieldVal_encodeHR]) rfl
  | rdmem a =>
    exact decode_hostWord rfl (payloadHM_clear_read a) (by simp only [readOperands, fieldAddr_encodeHM]) rfl
  | wrmem a v =>
    exact decode_hostWord rfl (payloadHM_clear a v)
      (by simp only [readOperands, fieldAddr_encodeHM, fieldVal_encodeHM]) rfl
  | ldoam d => exact decode_hostWord rfl (by decide) rfl (eq_of_beq hwf)
  | render c0 c1 c2 c3 =>
    exact decode_hostWord rfl BitVec.and_zero
      (by simp only [readOperands, fieldVal_encodeHP, fieldC1_encodeHP, fieldC2_encodeHP, fieldC3_encodeHP]) rfl
  | setirq e =>
    exact decode_hostWord rfl (by cases e <;> decide) (by simp only [readOperands, fieldE_encodeHE]) rfl
  | sqBlank | sqBegin | sqXfer | sqHbl | sqLine | sqVbl | sqVline | sqEnd => rfl

/-! ### Encoding what was decoded -/

/-- Two neighbouring parts of a word make one. -/
theorem extract_append {w : CommandWord} (k n m : Nat) :
    w.extractLsb' (k + n) m ++ w.extractLsb' k n = w.extractLsb' k (m + n) :=
  BitVec.extractLsb'_append_extractLsb'_eq_extractLsb' rfl

section
variable {op : HostOp} {w : CommandWord}

theorem and_mask_of_accepts (h : op.accepts w = true) : w &&& op.mask = hostWord op 0 := eq_of_beq h

/-- Where the mask covers a part of the payload, a word of the row holds zeros (R104). -/
theorem extract_eq_zero_of_accepts (h : op.accepts w = true) {k n : Nat} (hk : k + n ≤ 32)
    (hm : op.mask.extractLsb' k n = BitVec.allOnes n) : w.extractLsb' k n = 0#n := by
  calc w.extractLsb' k n = (w &&& op.mask).extractLsb' k n := by
        rw [BitVec.extractLsb'_and, hm, BitVec.and_allOnes]
    _ = 0#n := by rw [and_mask_of_accepts h, extract_hostWord _ _ k n hk]; exact BitVec.extractLsb'_zero

theorem fieldVal_of_accepts (h : op.accepts w = true) (hm : op.mask.extractLsb' 0 8 = BitVec.allOnes 8) :
    fieldVal w = 0 := extract_eq_zero_of_accepts h (by omega) hm

/-- A word of the row is the row's opcode over any payload that agrees with it. -/
theorem hostWord_of_accepts (h : op.accepts w = true) {p : BitVec 32} (hp : p = w.extractLsb' 0 32) :
    hostWord op p = w := by
  rw [hp]; exact (eq_hostWord (fieldOp_of_accepts h)).symm

theorem encodeH0_of_accepts (h : op.accepts w = true) (hm : op.mask = BitVec.allOnes 40) : encodeH0 op = w := by
  rw [← BitVec.and_allOnes (x := w), ← hm, and_mask_of_accepts h]; rfl

theorem encodeHR_of_accepts (h : op.accepts w = true) (hm : op.mask.extractLsb' 12 20 = BitVec.allOnes 20) {r : Reg}
    {v : Byte} (hr : r.number = fieldReg w) (hv : v = fieldVal w) : encodeHR op r v = w := by
  refine hostWord_of_accepts h ?_
  rw [hr, hv, ← extract_eq_zero_of_accepts h (by omega) hm, fieldReg, fieldVal]
  exact (congrArg (· ++ _) (extract_append 8 4 20)).trans (extract_append 0 8 24)

theorem encodeHM_of_accepts (h : op.accepts w = true) (hm : op.mask.extractLsb' 24 8 = BitVec.allOnes 8) {v : Byte}
    (hv : v = fieldVal w) : encodeHM op (fieldAddr w) v = w := by
  refine hostWord_of_accepts h ?_
  rw [hv, ← extract_eq_zero_of_accepts h (by omega) hm, fieldAddr, fieldVal]
  exact (congrArg (· ++ _) (extract_append 8 16 8)).trans (extract_append 0 8 24)

theorem encodeHP_of_accepts (h : op.accepts w = true) :
    encodeHP op (fieldVal w) (fieldC1 w) (fieldC2 w) (fieldC3 w) = w := by
  refine hostWord_of_accepts h ?_
  have h12 : fieldC3 w ++ fieldC2 w = w.extractLsb' 16 16 := extract_append 16 8 8
  have h24 : w.extractLsb' 16 16 ++ fieldC1 w = w.extractLsb' 8 24 := extract_append 8 8 16
  rw [h12, h24]
  exact extract_append 0 8 24

theorem encodeHE_of_accepts (h : op.accepts w = true) (hm : op.mask.extractLsb' 1 31 = BitVec.allOnes 31) :
    encodeHE op (fieldE w) = w := by
  refine hostWord_of_accepts h ?_
  have he : BitVec.ofBool (fieldE w) = w.extractLsb' 0 1 := by
    ext i hi
    obtain rfl : i = 0 := by omega
    simp [fieldE]
  rw [he, ← extract_eq_zero_of_accepts h (by omega) hm]
  exact extract_append 0 1 31

end

/-- Settles O2: an accepted word is the opcode over its fields, and zeros in the rest of the payload. -/
theorem hostWordHasOneMeaning : Obligations.HostWordHasOneMeaning := by
  intro w d i h
  obtain ⟨op, ha, hr, hd⟩ := decodeHost_eq_ok_iff.mp h
  have host {w' : CommandWord} (hw : w' = w) (h0 : i.burstLength = 0) : Fetched.host w' [] = .host w d := by
    rw [hw, List.eq_nil_of_length_eq_zero (hd.trans h0)]
  cases op with
  | init =>
    cases hr
    exact ⟨host (encodeH0_of_accepts ha rfl) rfl, rfl⟩
  | rdreg =>
    obtain ⟨r, hn, rfl⟩ := regOperand_eq_ok_iff.mp hr
    exact ⟨host (encodeHR_of_accepts ha (by decide) hn (fieldVal_of_accepts ha (by decide)).symm) rfl, rfl⟩
  | wrreg =>
    obtain ⟨r, hn, rfl⟩ := regOperand_eq_ok_iff.mp hr
    exact ⟨host (encodeHR_of_accepts ha (by decide) hn rfl) rfl, rfl⟩
  | setf | clrf =>
    obtain ⟨r, hn, hf, rfl⟩ := flagRegOperand_eq_ok_iff.mp hr
    exact ⟨host (encodeHR_of_accepts ha (by decide) hn rfl) rfl, hf⟩
  | rdmem =>
    cases hr
    exact ⟨host (encodeHM_of_accepts ha (by decide) (fieldVal_of_accepts ha (by decide)).symm) rfl, rfl⟩
  | wrmem =>
    cases hr
    exact ⟨host (encodeHM_of_accepts ha (by decide) rfl) rfl, rfl⟩
  | ldoam =>
    cases hr
    exact ⟨congrArg (Fetched.host · d) (encodeH0_of_accepts ha rfl), beq_iff_eq.mpr hd⟩
  | render =>
    cases hr
    exact ⟨host (encodeHP_of_accepts ha) rfl, rfl⟩
  | setirq =>
    cases hr
    exact ⟨host (encodeHE_of_accepts ha (by decide)) rfl, rfl⟩

/-! ### The burst (R116) -/

/-- The number of burst bytes an opcode fixes. -/
def HostOp.burstLength (op : HostOp) : Nat := if op.opcode.toNat = 8 then 160 else 0

theorem burstLength_of_readOperands {op : HostOp} {w : CommandWord} {d : List Byte} {i : Instr}
    (h : readOperands w d op = .ok i) : i.burstLength = op.burstLength := by
  cases op with
  | init | rdmem | wrmem | ldoam | render | setirq => cases h; rfl
  | rdreg | wrreg => obtain ⟨r, -, rfl⟩ := regOperand_eq_ok_iff.mp h; rfl
  | setf | clrf => obtain ⟨r, -, -, rfl⟩ := flagRegOperand_eq_ok_iff.mp h; rfl

/-- Whether the operands can be read does not depend on the burst. -/
theorem readOperands_of_other_burst {op : HostOp} {w : CommandWord} {d' : List Byte} {i : Instr}
    (h : readOperands w d' op = .ok i) (d : List Byte) : ∃ j, readOperands w d op = .ok j := by
  cases op with
  | ldoam => exact ⟨.ldoam d, rfl⟩
  | init | rdreg | wrreg | setf | clrf | rdmem | wrmem | render | setirq => exact ⟨i, h⟩

/-- The opcode fixes the length of the burst, and a burst of another length is a bad one. -/
theorem decodeHost_burst {w : CommandWord} {d' : List Byte} {i : Instr} (h : decodeHost w d' = .ok i) :
    ∃ op : HostOp, fieldOp w = op.opcode ∧ d'.length = op.burstLength ∧
      ∀ d : List Byte, d.length ≠ op.burstLength → decodeHost w d = .error .badBurst := by
  obtain ⟨op, ha, hr, hd⟩ := decodeHost_eq_ok_iff.mp h
  refine ⟨op, fieldOp_of_accepts ha, hd.trans (burstLength_of_readOperands hr), fun d hne => ?_⟩
  obtain ⟨j, hj⟩ := readOperands_of_other_burst hr d
  rw [decodeHost_of_accepts ha, hj]
  exact checkBurst_of_other_length (burstLength_of_readOperands hj ▸ hne)

end Sys2Proof

namespace Sys2Proof.Machine

/-! ### What is refused -/

/-- A command that decodes to nothing is refused when the host presents it (R111, R116). -/
theorem step_of_decode_error {s : State} {w : CommandWord} {d : List Byte} {rest : List HostInput} {e : DecodeError}
    (ht : s.hostTurn = true) (hi : s.inbox = .command w d :: rest) (hd : decodeHost w d = .error e) :
    step s = .refused (refusalOf e) := by
  rw [step_of_hostTurn ht hi]
  simp only [hostAct, execFetched, decode, hd]

/-- Settles O3: the ten pairs are the rows' own, so no row accepts the word. -/
theorem unmatchedWordsRefused : Obligations.UnmatchedWordsRefused := by
  intro s w d rest hrows ht hi
  have hnone : ∀ op : HostOp, op.accepts w = false := fun op =>
    beq_eq_false_iff_ne.mpr (hrows (op.matchWord, op.mask) (by cases op <;> decide))
  exact step_of_decode_error ht hi (decodeHost_of_no_row hnone d)

/-- Settles O5: by the opcode of the row that accepts the word. -/
theorem burstLengthFixedByOpcode : Obligations.BurstLengthFixedByOpcode := by
  intro s w d d' i rest hdec ht hi
  obtain ⟨op, hop, hlen, hother⟩ := decodeHost_burst hdec
  rw [show w.extractLsb' 32 8 = op.opcode from hop]
  exact ⟨hlen, fun hne => step_of_decode_error ht hi (hother d hne)⟩

/-! ### The selection map -/

/-- With nothing from the host the block rests on the host's turn (R112). -/
theorem step_of_rest {s : State} (ht : s.hostTurn = true) (hi : s.inbox = []) : step s = .next s := by
  simp only [step, ht, if_true, hostStep, hi]

/-- Settles O8: outside WAIT the step is the one `selected` gives the position. -/
theorem selectionMap : Obligations.SelectionMap := by
  intro s hw
  refine ⟨fun hp hc => step_selected hw ?_, fun hp hc => step_selected hw ?_, fun hp => step_selected hw ?_,
    fun hp => step_selected hw ?_, fun hp hc => step_selected hw ?_, fun hp hc => step_selected hw ?_,
    fun hp hc => step_selected hw ?_, fun hp hc => step_selected hw ?_,
    fun hp hi => step_of_rest (by simp [State.hostTurn, hp]) hi⟩
  all_goals simp only [selected, *, Bool.false_eq_true, if_true, if_false]

end Sys2Proof.Machine
end

section
/-! PROOFS. The host operations (R130 to R141): what an accepted one answers, what it changes and what it leaves as it
was. -/

namespace Sys2Proof.Machine

/-! ### What an accepted operation answers -/

section
variable {s : State}

theorem exec_rdreg_of_readable (h : s.Readable) (r : Reg) :
    exec (.rdreg r) s = .next (s.respond (some (.byte (s.regs.get r)))) := whenReadable_of_readable h _

theorem exec_rdmem_of_readable (h : s.Readable) (a : Addr) :
    exec (.rdmem a) s = .next (s.respond (some (.byte (s.mem.read a.toNat)))) := whenReadable_of_readable h _

theorem exec_wrreg_of_idle (h : s.Idle) (r : Reg) (v : Byte) :
    exec (.wrreg r v) s = .next ((s.hostWriteReg r v).respond none) := whenIdle_of_idle h _ _

theorem exec_setf_of_idle (h : s.Idle) {r : Reg} (hr : r.isFlagReg = true) (m : Byte) :
    exec (.setf r m) s = .next ((s.hostWriteReg r (s.regs.get r ||| m)).respond none) :=
  (if_pos hr).trans (whenIdle_of_idle h _ _)

theorem exec_clrf_of_idle (h : s.Idle) {r : Reg} (hr : r.isFlagReg = true) (m : Byte) :
    exec (.clrf r m) s = .next ((s.hostWriteReg r (s.regs.get r &&& ~~~m)).respond none) :=
  (if_pos hr).trans (whenIdle_of_idle h _ _)

theorem exec_wrmem_of_idle (h : s.Idle) (a : Addr) (v : Byte) :
    exec (.wrmem a v) s = .next ((s.setMem (s.mem.write a.toNat v)).respond none) := whenIdle_of_idle h _ _

theorem exec_ldoam_of_idle (h : s.Idle) {d : List Byte} (hd : d.length = 160) :
    exec (.ldoam d) s = .next ((s.setMem (s.mem.writeBytes 0xFE00 d)).respond none) :=
  (if_pos hd).trans (whenIdle_of_idle h _ _)

end

/-- Settles O12: a read answers the stored byte and touches nothing but the response. -/
theorem readsReturnStoredByte : Obligations.ReadsReturnStoredByte :=
  fun _ hs => ⟨exec_rdreg_of_readable hs, exec_rdmem_of_readable hs⟩

/-- Settles O19: an idle block accepts RENDER, which writes the palette and the phase. -/
theorem renderStartsFrame : Obligations.RenderStartsFrame :=
  fun _ _ _ _ _ hs => ⟨_, whenIdle_of_idle hs _ _, rfl, rfl, rfl, rfl, rfl, rfl⟩

/-- Settles O20: an idle block accepts SETIRQ, which writes the sink. -/
theorem setirqInstallsSink : Obligations.SetirqInstallsSink :=
  fun _ _ hs => whenIdle_of_idle hs _ _

/-! ### Register writes -/

/-- A host write is plain storage, but for one to STAT that would change bits 2:0 (R37, R133). -/
theorem hostWriteReg_eq_setReg {s : State} {r : Reg} {v : Byte}
    (h : r = .stat → engineBits v = engineBits s.regs.stat) : s.hostWriteReg r v = s.setReg r v := by
  by_cases hr : r = .stat
  · subst hr
    simp only [State.hostWriteReg, State.hostWriteStat, h rfl, if_true]
  · simp only [State.hostWriteReg, hr, if_false]

/-- An operation that answers plain storage of `v` in `r` leaves `v` there and everything else as it was (R31). -/
theorem stores_of_exec_eq {s : State} {i : Instr} {r : Reg} {v : Byte}
    (hx : exec i s = .next ((s.hostWriteReg r v).respond none))
    (hplain : r = .stat → engineBits v = engineBits s.regs.stat) :
    ∃ t, exec i s = .next t ∧ t.regs.get r = v ∧
      (∀ r', r' ≠ r → t.regs.get r' = s.regs.get r') ∧
      t = { s with regs := t.regs, response := none } := by
  rw [hostWriteReg_eq_setReg hplain] at hx
  exact ⟨_, hx, RegBank.get_set_same _ _ _, fun _ hr => RegBank.get_set_other _ hr _, rfl⟩

/-- Settles O13: a write to a register other than STAT is plain storage. -/
theorem wrregStoresByte : Obligations.WrregStoresByte :=
  fun _ r v hs hr => stores_of_exec_eq (exec_wrreg_of_idle hs r v) fun e => absurd e hr

/-! ### Flag operations -/

theorem isFlagReg_iff (r : Reg) : r.isFlagReg = true ↔ r = .lcdc ∨ r = .stat := by
  cases r <;> decide

/-- A mask inside 0xF8 has none of the engine's bits. -/
theorem engineBits_of_host_mask {m : Byte} (h : m &&& 0x07 = 0) : engineBits m = 0 := by
  calc engineBits m = engineBits m &&& engineBits 0x07 := (BitVec.and_allOnes (x := engineBits m)).symm
    _ = engineBits (m &&& 0x07) := BitVec.extractLsb'_and.symm
    _ = 0 := by rw [h]; rfl

theorem engineBits_or_host_mask {m : Byte} (h : m &&& 0x07 = 0) (st : Byte) :
    engineBits (st ||| m) = engineBits st := by
  calc engineBits (st ||| m) = engineBits st ||| engineBits m := BitVec.extractLsb'_or
    _ = engineBits st := by rw [engineBits_of_host_mask h]; exact BitVec.or_zero

theorem engineBits_and_not_host_mask {m : Byte} (h : m &&& 0x07 = 0) (st : Byte) :
    engineBits (st &&& ~~~m) = engineBits st := by
  calc engineBits (st &&& ~~~m) = engineBits st &&& engineBits (~~~m) := BitVec.extractLsb'_and
    _ = engineBits st &&& ~~~engineBits m :=
      congrArg (engineBits st &&& ·) (BitVec.extractLsb'_not_of_lt (by decide))
    _ = engineBits st := by rw [engineBits_of_host_mask h]; exact BitVec.and_allOnes

/-- Settles O15: on a flag register both are a host write of the register's value with the mask's bits set or
cleared, which on STAT leaves bits 2:0 alone. -/
theorem flagOperations : Obligations.FlagOperations := by
  intro s r m
  refine ⟨fun hs hr => ?_, fun hl hst => ?_⟩
  · have hflag : r.isFlagReg = true := (isFlagReg_iff r).mpr (hr.imp_right And.left)
    have hmask : r = .stat → m &&& 0x07 = 0 := by
      rintro rfl
      simpa using hr
    constructor
    · obtain ⟨t, hx, hget, hframe⟩ := stores_of_exec_eq (exec_setf_of_idle hs hflag m) (by
        rintro rfl; exact engineBits_or_host_mask (hmask rfl) _)
      exact ⟨t, hx, fun k _ => by rw [hget, BitVec.getLsbD_or], hframe⟩
    · obtain ⟨t, hx, hget, hframe⟩ := stores_of_exec_eq (exec_clrf_of_idle hs hflag m) (by
        rintro rfl; exact engineBits_and_not_host_mask (hmask rfl) _)
      exact ⟨t, hx, fun k hk => by simp [hget, hk], hframe⟩
  · have hflag : ¬ r.isFlagReg = true := fun h => ((isFlagReg_iff r).mp h).elim hl hst
    exact ⟨if_neg hflag, if_neg hflag⟩

/-! ### Memory writes -/

/-- Settles O16: by the law of one write to memory. -/
theorem wrmemStoresByte : Obligations.WrmemStoresByte := by
  intro s a v hs ⟨hsorted, _⟩
  exact ⟨_, exec_wrmem_of_idle hs a v, Memory.read_write hsorted a.toNat v, rfl⟩

/-- Settles O17: by the law of consecutive writes to memory. -/
theorem ldoamOverwritesTable : Obligations.LdoamOverwritesTable := by
  intro s d ⟨hsorted, _⟩
  refine ⟨fun hd hs => ⟨_, exec_ldoam_of_idle hs hd, fun k hk => ?_, fun b hb => ?_, rfl⟩, fun hd => if_neg hd⟩
  · have hin : 0xFE00 ≤ 0xFE00 + k ∧ 0xFE00 + k - 0xFE00 < d.length := by omega
    refine (Memory.read_writeBytes hsorted d _ _).trans ((dif_pos hin).trans ?_)
    simp only [Nat.add_sub_cancel_left]
  · exact (Memory.read_writeBytes hsorted d _ _).trans (dif_neg (by omega))

/-- WRMEM of each byte of a list at the addresses from `0xFE00 + k` on, one after another, writes them as consecutive
bytes. `f` is any function that runs the next WRMEM on a state the ones before it have answered. -/
theorem foldl_wrmem_eq_writeBytes
    {f : Host.Outcome State Fault Refusal → Byte × Nat → Host.Outcome State Fault Refusal}
    (hf : ∀ u p, f (.next u) p = exec (.wrmem (BitVec.ofNat 16 (0xFE00 + p.2)) p.1) u) (d : List Byte) :
    ∀ {s : State} {k : Nat}, s.Idle → 0xFE00 + k + d.length ≤ 65536 →
      (d.zipIdx k).foldl f (.next (s.respond none)) =
        .next ((s.setMem (s.mem.writeBytes (0xFE00 + k) d)).respond none) := by
  induction d with
  | nil => intros; rfl
  | cons v d ih =>
    intro s k hs hk
    rw [List.length_cons] at hk
    have haddr : (BitVec.ofNat 16 (0xFE00 + k)).toNat = 0xFE00 + k :=
      Nat.mod_eq_of_lt (by omega)
    have hfirst : f (.next (s.respond none)) (v, k) =
        .next ((s.setMem (s.mem.write (0xFE00 + k) v)).respond none) := by
      rw [hf, exec_wrmem_of_idle (s := s.respond none) hs, haddr]; rfl
    rw [List.zipIdx_cons, List.foldl_cons, hfirst]
    exact ih (s := s.setMem _) hs (by omega)

/-- Settles O18: both write the burst as consecutive bytes from the table's first address on. -/
theorem ldoamIsManyWrmem : Obligations.LdoamIsManyWrmem := by
  intro s d hd hs
  rw [exec_ldoam_of_idle hs hd]
  symm
  exact foldl_wrmem_eq_writeBytes (k := 0) (fun _ _ => rfl) d hs (by omega)

end Sys2Proof.Machine
end

section
/-! PROOFS. The tile decoder and the addresses the block forms (R85, R150 to R155). -/

namespace Sys2Proof.Machine

/-! ### The tile decoder -/

/-- Unsigned addressing takes the index as it is (R151). -/
@[simp] theorem effectiveTile_unsigned (tile : Byte) : effectiveTile .unsigned tile = tile := rfl

/-- Signed addressing takes the index negated modulo 256 (R152). -/
@[simp] theorem effectiveTile_signed_toNat (tile : Byte) :
    (effectiveTile .signed tile).toNat = (256 - tile.toNat) % 256 :=
  BitVec.toNat_sub 0#8 tile

/-- Settles O22: by the effective tile number of each addressing mode. -/
theorem decodeRowAddresses : Obligations.DecodeRowAddresses := by
  intro m base tile row
  constructor
  · simp only [decodeRow, rowAddress, Config.tileBytes, effectiveTile_unsigned]
  · simp only [decodeRow, rowAddress, Config.tileBytes, effectiveTile_signed_toNat]

/-- Two bits put side by side are a 2-bit number, the left one the high bit. -/
theorem toNat_ofBool_append_ofBool (hi lo : Bool) :
    (BitVec.ofBool hi ++ BitVec.ofBool lo).toNat = 2 * hi.toNat + lo.toNat := by
  cases hi <;> cases lo <;> rfl

/-- Settles O23: the index is the two plane bits side by side, and both are 0 in an all-zero row. -/
theorem paletteIndexOfPlanes : Obligations.PaletteIndexOfPlanes := by
  intro b0 b1 c
  constructor
  · exact toNat_ofBool_append_ofBool _ _
  · have hbit : (0 : Byte).getLsbD (7 - c.toNat) = false := BitVec.getLsbD_zero
    simp only [paletteIndex, hbit]
    rfl

/-- Settles O24: a 2-bit field is the shifted byte modulo 4, which is its conjunction with 3. -/
theorem colorOfPalette : Obligations.ColorOfPalette := by
  intro i p
  calc (color i p).toNat = (p.toNat >>> (2 * i.toNat)) % 2 ^ 2 := BitVec.extractLsb'_toNat ..
    _ = (p.toNat >>> (2 * i.toNat)) &&& 3 := (Nat.and_two_pow_sub_one_eq_mod _ 2).symm

/-! ### The addresses -/

/-- Both tile bases of a legal configuration are at most 0xF000 (R72, R85). -/
theorem tileBase_le_max (p : Config.Params) (mode : Addressing) : tileBase p mode ≤ Config.maxTileBase := by
  cases mode with
  | unsigned => exact (by decide : Config.offTile ≤ Config.maxTileBase)
  | signed => exact Nat.le_of_lt_succ p.tileBaseSigned.isLt

/-- Both default tile bases are at most 0x8800 (R73, D5). -/
theorem tileBase_default_le (mode : Addressing) : tileBase Config.Params.default mode ≤ 0x8800 := by
  cases mode <;> decide

/-- A tile map is one of the two 1024-byte halves of 0x9800 to 0x9FFF (R72). -/
theorem mapBase_bounds (sel : Bool) : 0x9800 ≤ mapBase sel ∧ mapBase sel + 1023 ≤ 0x9FFF := by
  cases sel <;> decide

/-- The entry of a pixel of the 256×256 layer is among the 1024 of its map (R174). -/
theorem mapEntry_lt {px py : Nat} (hx : px < 256) (hy : py < 256) : 32 * (py / 8) + px / 8 < 1024 := by
  omega

/-- The bytes of an object record are inside the object table (R77). -/
theorem objAddress_bounds (i : Fin 40) {k : Nat} (hk : k < 4) :
    0xFE00 ≤ objAddress i k ∧ objAddress i k ≤ 0xFE9F := by
  simp only [objAddress, Config.offOam, Config.oamRec]
  omega

/-- Settles O25: a tile row is among the 4096 bytes from its base on, a map entry among the 1024 of its map, and an
object's byte inside the object table. -/
theorem addressesStayInBuffer : Obligations.AddressesStayInBuffer := by
  refine ⟨fun p mode tile row => ?_, fun mode tile row => ?_, fun sel px py hx hy => ?_,
    fun i _ => objAddress_bounds i⟩
  · obtain ⟨n, hn, haddr⟩ := rowAddress_eq_add (tileBase p mode) mode tile row
    have hbase : tileBase p mode ≤ 0xF000 := tileBase_le_max p mode
    omega
  · obtain ⟨n, hn, haddr⟩ := rowAddress_eq_add (tileBase Config.Params.default mode) mode tile row
    have hbase := tileBase_default_le mode
    omega
  · have hmap := mapBase_bounds sel
    have hentry := mapEntry_lt hx hy
    omega

end Sys2Proof.Machine
end

section
/-! PROOFS. The sprite scanner: the lines a sprite covers and the records a scan selects (R160 to R168). -/

namespace Sys2Proof.Machine

/-! ### The vertical range -/

/-- The test of R160 with 16 added on both sides, in natural numbers. -/
theorem covers_iff (line : Nat) (size16 : Bool) (y : Byte) :
    covers line size16 y = true ↔
      y.toNat ≤ line + 16 ∧ line + 16 < y.toNat + spriteHeight size16 := by
  rw [covers, decide_eq_true_iff, Config.yOfs]
  omega

/-- A sprite misses the lines above its first row and those below its last one. -/
theorem covers_eq_false_iff (line : Nat) (size16 : Bool) (y : Byte) :
    covers line size16 y = false ↔
      line + 16 < y.toNat ∨ y.toNat + spriteHeight size16 ≤ line + 16 := by
  rw [← Bool.not_eq_true, covers_iff]
  omega

/-- Settles O27: a line of the screen is above a sprite stored at 160 or more, and below an 8-row sprite stored at 8 or
less and a 16-row one stored at 0. -/
theorem verticalRange : Obligations.VerticalRange := by
  intro line y hline
  have above (size16 : Bool) (hy : 160 ≤ y.toNat) : covers line size16 y = false :=
    (covers_eq_false_iff ..).mpr (.inl (by omega))
  have below {size16 : Bool} (hy : y.toNat + spriteHeight size16 ≤ 16) : covers line size16 y = false :=
    (covers_eq_false_iff ..).mpr (.inr (by omega))
  exact ⟨covers_iff line false y, covers_iff line true y, fun hy => below (Nat.add_le_add_right hy 8),
    fun hy => below (Nat.add_le_add_right hy.le 16), fun hy => ⟨above false hy, above true hy⟩⟩

/-! ### The selected records -/

/-- A record is selectable when its index is even or sprites have 8 rows, and the test of R160 holds of its stored y
(R163). -/
theorem selectable_iff (m : Memory) (line : Nat) (size16 : Bool) (i : Fin 40) :
    selectable m line size16 i = true ↔
      (size16 = true → i.val % 2 = 0) ∧ ((objY m i).toNat : Int) - Config.yOfs ≤ line ∧
        (line : Int) < ((objY m i).toNat : Int) - Config.yOfs + spriteHeight size16 := by
  cases size16 <;> simp [selectable, covers]

theorem selectable_of_mem_scan {m : Memory} {line : Nat} {size16 : Bool} {i : Fin 40}
    (h : i ∈ scan m line size16) : selectable m line size16 i = true :=
  (List.mem_filter.mp (List.mem_of_mem_take h)).2

/-- What a list holds, and its first `n` do not, is among the rest. -/
theorem mem_drop_of_not_mem_take {α : Type} {l : List α} {n : Nat} {a : α} (h : a ∈ l) (hn : a ∉ l.take n) :
    a ∈ l.drop n := by
  rw [← List.take_append_drop n l, List.mem_append] at h
  exact h.resolve_left hn

/-- A selectable record that the scan leaves out has ten selected ones before it and none after it (R166). -/
theorem scan_full_before {m : Memory} {line : Nat} {size16 : Bool} {i : Fin 40}
    (hi : selectable m line size16 i = true) (hn : i ∉ scan m line size16) :
    (scan m line size16).length = Config.maxSprites ∧ ∀ j ∈ scan m line size16, j < i := by
  have hrest := mem_drop_of_not_mem_take (List.mem_filter.mpr ⟨List.mem_finRange i, hi⟩) hn
  constructor
  · have hlen := List.length_pos_of_mem hrest
    rw [List.length_drop] at hlen
    exact List.length_take_of_le (by omega)
  · have hsorted := (List.pairwise_lt_finRange 40).filter (selectable m line size16)
    rw [← List.take_append_drop Config.maxSprites (List.filter _ _), List.pairwise_append] at hsorted
    obtain ⟨-, -, hlt⟩ := hsorted
    exact fun j hj => hlt j hj i hrest

/-- Settles O26: the scan is the first ten of the ascending list of the selectable records. -/
theorem scanSelectsFirstTen : Obligations.ScanSelectsFirstTen := by
  intro m line size16 hit before
  have hhit (i : Fin 40) : selectable m line size16 i = true ↔ hit i := by
    rw [selectable_iff]
    cases size16 <;> rfl
  refine ⟨scan_length_le .., scan_pairwise .., fun i hi => (hhit i).mp (selectable_of_mem_scan hi),
    fun i hi hn => ?_⟩
  obtain ⟨hlen, hlt⟩ := scan_full_before ((hhit i).mpr hi) hn
  have hall : (scan m line size16).filter (· < i) = scan m line size16 :=
    List.filter_eq_self.mpr fun j hj => decide_eq_true (hlt j hj)
  calc before i = (scan m line size16).length := congrArg List.length hall
    _ = 10 := hlen

end Sys2Proof.Machine
end

section
/-! PROOFS. The frame compositor: the layers, the sprites, a pixel, and the blank frame (R170 to R184, R245). -/

namespace Sys2Proof.Machine

/-! ### Window and background -/

/-- The test of R171 with 7 added on both sides, in natural numbers. -/
theorem windowCovers_iff (s : State) (line col : Nat) :
    windowCovers s line col = true ↔
      winEn s.regs.lcdc = true ∧ s.regs.wy.toNat ≤ line ∧ s.regs.wx.toNat ≤ col + 7 := by
  rw [windowCovers, Bool.and_eq_true, decide_eq_true_iff, windowLeft, Config.wxOfs]
  exact and_congr_right fun _ => by omega

/-- The window's own column, in natural numbers (R171). -/
theorem windowIndex_eq (s : State) (line col : Nat) :
    windowIndex s line col = layerIndex s (mapBase (winMap s.regs.lcdc)) (col + 7 - s.regs.wx.toNat)
      (line - s.regs.wy.toNat) := by
  have hcol : ((col : Int) - windowLeft s).toNat = col + 7 - s.regs.wx.toNat := by
    rw [windowLeft, Config.wxOfs]
    omega
  rw [windowIndex, hcol]

theorem bgwinIndex_of_covers {s : State} {line col : Nat} (h : windowCovers s line col = true) :
    bgwinIndex s line col = windowIndex s line col := if_pos h

theorem bgwinIndex_of_not_covers {s : State} {line col : Nat} (h : ¬ windowCovers s line col = true) :
    bgwinIndex s line col = if bgEn s.regs.lcdc then backgroundIndex s line col else 0 := if_neg h

/-- Settles O29: by the window's test and its column, both in natural numbers. -/
theorem windowElseBackground : Obligations.WindowElseBackground := by
  intro s line col
  rw [← windowCovers_iff]
  exact ⟨fun h => (bgwinIndex_of_covers h).trans (windowIndex_eq s line col), bgwinIndex_of_not_covers⟩

/-- With the window off no pixel is covered by it. -/
theorem bgwinIndex_of_window_off {s : State} (h : winEn s.regs.lcdc = false) (line col : Nat) :
    bgwinIndex s line col = if bgEn s.regs.lcdc then backgroundIndex s line col else 0 :=
  bgwinIndex_of_not_covers (by simp [windowCovers, h])

theorem bgwinIndex_of_background_off {s : State} (h : bgEn s.regs.lcdc = false) (line col : Nat) :
    bgwinIndex s line col = if windowCovers s line col then windowIndex s line col else 0 := by
  simp only [bgwinIndex, h, Bool.false_eq_true, if_false]

/-! ### The lookup in a tile -/

/-- The index at a column of a tile row, from the two plane bytes of the row (R151 to R153). -/
theorem paletteIndex_decodeRow_toNat (m : Memory) (base : Nat) (mode : Addressing) (tile : Byte)
    (row column : TileCoord) :
    (paletteIndex (decodeRow m base mode tile row) column).toNat =
      2 * ((m.read (rowAddress base mode tile row + 1)).getLsbD (7 - column.toNat)).toNat +
        ((m.read (rowAddress base mode tile row)).getLsbD (7 - column.toNat)).toNat :=
  toNat_ofBool_append_ofBool _ _

/-- The row address of a layer's tile in the mode TILE_DATA selects (R34, R151, R152). -/
theorem rowAddress_layer (p : Config.Params) (lcdc tile : Byte) (row : TileCoord) :
    rowAddress (tileBase p (layerAddressing lcdc)) (layerAddressing lcdc) tile row =
      (if tileData lcdc then 0x8000 + 16 * tile.toNat
        else p.tileBaseSigned.val + 16 * ((256 - tile.toNat) % 256)) + 2 * row.toNat := by
  cases h : tileData lcdc with
  | true =>
    simp only [layerAddressing, h, if_true, rowAddress, tileBase, Config.offTile, Config.tileBytes,
      effectiveTile_unsigned]
  | false =>
    simp only [layerAddressing, h, Bool.false_eq_true, if_false, rowAddress, tileBase, Config.tileBytes,
      effectiveTile_signed_toNat]

/-- Settles O30: the tile is looked up in the mode TILE_DATA selects, at the low three bits of the coordinates. -/
theorem layerLookup : Obligations.LayerLookup := by
  intro s map px py tile T
  have hrow := rowAddress_layer s.cfg s.regs.lcdc tile (BitVec.ofNat 3 py)
  rw [layerIndex, paletteIndex_decodeRow_toNat]
  simp only [Config.mapDim]
  rw [hrow, BitVec.toNat_ofNat, BitVec.toNat_ofNat]

/-! ### The columns of a sprite -/

/-- A sprite covers the columns `x − 8` to `x − 1` (R176). -/
theorem spriteColumn_bounds_iff (m : Memory) (i : Fin 40) (col : Nat) :
    0 ≤ spriteColumn m i col ∧ spriteColumn m i col ≤ 7 ↔
      (objX m i).toNat ≤ col + 8 ∧ col + 8 ≤ (objX m i).toNat + 7 := by
  rw [spriteColumn, Config.xOfs]
  omega

/-- The column inside a sprite that covers it, as a tile column. -/
theorem ofInt_spriteColumn_toNat {m : Memory} {i : Fin 40} {col : Nat}
    (h : (objX m i).toNat ≤ col + 8 ∧ col + 8 ≤ (objX m i).toNat + 7) :
    (BitVec.ofInt 3 (spriteColumn m i col)).toNat = col + 8 - (objX m i).toNat := by
  rw [BitVec.toNat_ofInt, spriteColumn, Config.xOfs]
  omega

theorem mirror_toNat (flip : Bool) (c : TileCoord) :
    (mirror flip c).toNat = if flip then 7 - c.toNat else c.toNat := by
  cases flip with
  | false => rfl
  | true =>
    have hc := c.isLt
    simp only [mirror, if_true]
    bv_omega

theorem spriteIndex_of_outside {s : State} {i : Fin 40} {col : Nat}
    (h : ¬ ((objX s.mem i).toNat ≤ col + 8 ∧ col + 8 ≤ (objX s.mem i).toNat + 7)) (line : Nat) :
    spriteIndex s i line col = none :=
  if_neg (mt (spriteColumn_bounds_iff ..).mp h)

theorem spriteIndex_of_inside {s : State} {i : Fin 40} {col : Nat}
    (h : (objX s.mem i).toNat ≤ col + 8 ∧ col + 8 ≤ (objX s.mem i).toNat + 7) (line : Nat) :
    spriteIndex s i line col = some (paletteIndex
      (decodeRow s.mem Config.offTile .unsigned (spriteRow s.mem i line (objSize s.regs.lcdc)).1
        (mirror (flagVflip (objFlags s.mem i)) (spriteRow s.mem i line (objSize s.regs.lcdc)).2))
      (mirror (flagHflip (objFlags s.mem i)) (BitVec.ofInt 3 (spriteColumn s.mem i col)))) :=
  if_pos ((spriteColumn_bounds_iff ..).mpr h)

/-- Settles O31: the sprite's column is in the tile exactly on its eight columns, and there both coordinates are
mirrored in natural numbers. -/
theorem spriteColumns : Obligations.SpriteColumns := by
  intro s i line col x f tr r c
  constructor
  · intro h
    have hout : ¬ (x ≤ col + 8 ∧ col + 8 ≤ x + 7) := by omega
    exact spriteIndex_of_outside hout line
  · intro h
    have hrow : (mirror (flagVflip (objFlags s.mem i)) tr.2).toNat = r := mirror_toNat ..
    have hcol : (mirror (flagHflip (objFlags s.mem i)) (BitVec.ofInt 3 (spriteColumn s.mem i col))).toNat = c := by
      rw [mirror_toNat, ofInt_spriteColumn_toNat h]
      rfl
    refine ⟨_, spriteIndex_of_inside h line, ?_⟩
    rw [paletteIndex_decodeRow_toNat, hcol, rowAddress, hrow]
    rfl

/-! ### The sprite that wins -/

/-- The sprite does not draw at the pixel: its index there is 0, or PRIO holds it back, or it does not cover the
column (R176, R177). -/
def Silent (s : State) (line col : Nat) (bgidx : TwoBit) (i : Fin 40) : Prop :=
  ∀ q, spriteIndex s i line col = some q → q = 0 ∨ (flagPrio (objFlags s.mem i) = true ∧ bgidx ≠ 0)

theorem heldBack_iff (s : State) (i : Fin 40) (bgidx : TwoBit) :
    heldBack s i bgidx = true ↔ flagPrio (objFlags s.mem i) = true ∧ bgidx ≠ 0 := by
  rw [heldBack, Bool.and_eq_true, bne_iff_ne]

section
variable {s : State} {line col : Nat} {bgidx : TwoBit}

theorem drawSprite_of_silent {i : Fin 40} (h : Silent s line col bgidx i) (p : Pixel) :
    drawSprite s line col bgidx i p = p := by
  unfold drawSprite
  split
  case h_1 => rfl
  case h_2 q hq => exact if_pos ((h q hq).imp_right (heldBack_iff ..).mpr)

theorem drawSprite_of_not_silent {i : Fin 40} {q : TwoBit} (h : ¬ Silent s line col bgidx i)
    (hq : spriteIndex s i line col = some q) (p : Pixel) :
    drawSprite s line col bgidx i p = { idx := q, preg := objPalette (flagPal (objFlags s.mem i)) } := by
  have hdraws : ¬ (q = 0 ∨ heldBack s i bgidx = true) := by
    rw [heldBack_iff]
    refine fun hs => h fun q' hq' => ?_
    rwa [← Option.some.inj (hq.symm.trans hq')]
  simp only [drawSprite, hq, if_neg hdraws]

/-- Sprites that do not draw leave the pixel as it was. -/
theorem foldr_drawSprite_of_silent {l : List (Fin 40)} (h : ∀ j ∈ l, Silent s line col bgidx j) (p : Pixel) :
    l.foldr (drawSprite s line col bgidx) p = p := by
  induction l with
  | nil => rfl
  | cons j l ih =>
    rw [List.forall_mem_cons] at h
    rw [List.foldr_cons, ih h.2, drawSprite_of_silent h.1]

end

theorem resolve_of_objects_on {s : State} (h : objEn s.regs.lcdc = true) (line col : Nat) :
    resolve s line col = s.sb.foldr (drawSprite s line col (bgwinIndex s line col))
      { idx := bgwinIndex s line col, preg := .bgp } := if_pos h

theorem resolve_of_objects_off {s : State} (h : objEn s.regs.lcdc = false) (line col : Nat) :
    resolve s line col = { idx := bgwinIndex s line col, preg := .bgp } :=
  if_neg (Bool.eq_false_iff.mp h)

/-- Settles O33: the sprites before the winner leave its pixel as it is, and it overwrites whatever the ones after it
drew. -/
theorem firstDrawingSpriteWins : Obligations.FirstDrawingSpriteWins := by
  intro s line col hobj bgidx silent
  rw [resolve_of_objects_on hobj]
  refine ⟨fun before after i q hsb hbefore hi hq => ?_, fun hall => foldr_drawSprite_of_silent hall _⟩
  rw [hsb, List.foldr_append, List.foldr_cons, drawSprite_of_not_silent hi hq, foldr_drawSprite_of_silent hbefore]

/-! ### The output byte -/

/-- With objects off a pixel is the background/window index through BGP (R175, R179). -/
theorem pixel_of_objects_off {s : State} (h : objEn s.regs.lcdc = false) (line col : Nat) :
    pixel s line col = s.opal.at (color (bgwinIndex s line col) s.regs.bgp) := by
  rw [pixel, resolve_of_objects_off h]
  rfl

/-- Settles O34: by the pixel with objects off, whose index is 0 when window and background are off too. -/
theorem outputByte : Obligations.OutputByte := by
  intro s line col
  refine ⟨?_, fun hobj sb' => ⟨?_, pixel_of_objects_off hobj line col⟩, fun hobj hwin hbg => ?_⟩
  · rw [pixel]
    cases (resolve s line col).preg <;> rfl
  · exact (pixel_of_objects_off (s := { s with sb := sb' }) hobj line col).trans
      (pixel_of_objects_off hobj line col).symm
  · have hidx : bgwinIndex s line col = 0 := by
      rw [bgwinIndex_of_window_off hwin, hbg]
      rfl
    rw [pixel_of_objects_off hobj, hidx]
    rfl

/-! ### Registers the frame does not read -/

/-- Beyond the background/window index a pixel looks at four registers, the memory, the output palette and the sprite
buffer only. -/
theorem pixel_congr_of_bgwinIndex {s t : State} (hmem : t.mem = s.mem) (hopal : t.opal = s.opal) (hsb : t.sb = s.sb)
    (hregs : ∀ r ∈ [Reg.lcdc, .bgp, .obp0, .obp1], t.regs.get r = s.regs.get r) {line col : Nat}
    (hidx : bgwinIndex t line col = bgwinIndex s line col) : pixel t line col = pixel s line col := by
  have hlcdc : t.regs.lcdc = s.regs.lcdc := hregs .lcdc (by decide)
  have hpal : t.regs.palette = s.regs.palette := by
    funext p
    cases p with
    | bgp => exact hregs .bgp (by decide)
    | obp0 => exact hregs .obp0 (by decide)
    | obp1 => exact hregs .obp1 (by decide)
  have hdraw : drawSprite t line col = drawSprite s line col := by
    funext bgidx i p
    unfold drawSprite spriteIndex heldBack
    rw [hmem, hlcdc]
  simp only [pixel, resolve, drawSprites, hidx, hdraw, hlcdc, hpal, hopal, hsb]

section
variable {s : State} {r : Reg} {v : Byte} {line col : Nat}

/-- A register that is not among the four reaches a pixel through the background/window index only. -/
theorem pixel_setReg_of_bgwinIndex (hr : r ∉ [Reg.lcdc, .bgp, .obp0, .obp1])
    (hidx : bgwinIndex (s.setReg r v) line col = bgwinIndex s line col) :
    pixel (s.setReg r v) line col = pixel s line col :=
  pixel_congr_of_bgwinIndex (s := s) (t := s.setReg r v) rfl rfl rfl
    (fun _ hr' => RegBank.get_set_other s.regs (ne_of_mem_of_not_mem hr' hr) v) hidx

theorem bgwinIndex_setReg_of_window_off (h : winEn s.regs.lcdc = false) (hr : r = .wx ∨ r = .wy) :
    bgwinIndex (s.setReg r v) line col = bgwinIndex s line col := by
  have ⟨hlcdc, hbg⟩ : (s.setReg r v).regs.lcdc = s.regs.lcdc ∧
      backgroundIndex (s.setReg r v) line col = backgroundIndex s line col := by
    obtain rfl | rfl := hr
    all_goals exact ⟨rfl, rfl⟩
  rw [bgwinIndex_of_window_off h, bgwinIndex_of_window_off (hlcdc ▸ h), hlcdc, hbg]

theorem bgwinIndex_setReg_of_background_off (h : bgEn s.regs.lcdc = false) (hr : r = .scx ∨ r = .scy) :
    bgwinIndex (s.setReg r v) line col = bgwinIndex s line col := by
  have ⟨hlcdc, hcovers, hwin⟩ : (s.setReg r v).regs.lcdc = s.regs.lcdc ∧
      windowCovers (s.setReg r v) line col = windowCovers s line col ∧
      windowIndex (s.setReg r v) line col = windowIndex s line col := by
    obtain rfl | rfl := hr
    all_goals exact ⟨rfl, rfl, rfl⟩
  rw [bgwinIndex_of_background_off h, bgwinIndex_of_background_off (hlcdc ▸ h), hcovers, hwin]

/-- Neither layer looks at LYC, LY or STAT. -/
theorem bgwinIndex_setReg_of_line_register (hr : r = .lyc ∨ r = .ly ∨ r = .stat) :
    bgwinIndex (s.setReg r v) line col = bgwinIndex s line col := by
  obtain rfl | rfl | rfl := hr
  all_goals rfl

theorem pixel_setReg_of_objects_off (h : objEn s.regs.lcdc = false) (hr : r = .obp0 ∨ r = .obp1) :
    pixel (s.setReg r v) line col = pixel s line col := by
  have ⟨hlcdc, hbgp, hidx⟩ : (s.setReg r v).regs.lcdc = s.regs.lcdc ∧ (s.setReg r v).regs.bgp = s.regs.bgp ∧
      bgwinIndex (s.setReg r v) line col = bgwinIndex s line col := by
    obtain rfl | rfl := hr
    all_goals exact ⟨rfl, rfl, rfl⟩
  rw [pixel_of_objects_off h, pixel_of_objects_off (hlcdc ▸ h), hbgp, hidx, State.setReg_opal]

end

/-- Settles O36: with its layer off a scroll or window register does not reach the background/window index, with
objects off the object palettes are not looked at, and no layer looks at the rest. -/
theorem unusedRegistersDoNotMatter : Obligations.UnusedRegistersDoNotMatter := by
  intro s r v line col hr
  obtain ⟨hwin, hr⟩ | ⟨hbg, hr⟩ | ⟨hobj, hr⟩ | hr := hr
  · exact pixel_setReg_of_bgwinIndex (by obtain rfl | rfl := hr <;> decide) (bgwinIndex_setReg_of_window_off hwin hr)
  · exact pixel_setReg_of_bgwinIndex (by obtain rfl | rfl := hr <;> decide)
      (bgwinIndex_setReg_of_background_off hbg hr)
  · exact pixel_setReg_of_objects_off hobj hr
  · exact pixel_setReg_of_bgwinIndex (by obtain rfl | rfl | rfl := hr <;> decide)
      (bgwinIndex_setReg_of_line_register hr)

/-! ### The blank frame -/

theorem blankFill_pixel (s : State) {l c : Nat} (hl : l < 144) (hc : c < 160) :
    (blankFill s).fb[l][c] = s.cfg.blank := by
  simp only [blankFill_fb, Vector.getElem_replicate]

/-- Settles O37: the step is `blankFill` followed by the phase WAIT. -/
theorem sqBlankFillsFrame : Obligations.SqBlankFillsFrame := fun s =>
  ⟨(blankFill s).setPhase .wait, rfl, rfl, fun _ _ hl hc => blankFill_pixel s hl hc, rfl⟩

end Sys2Proof.Machine
end

section
/-! PROOFS. The mode sequencer (R190 to R204): the steps that enter a mode, that every step of the sequencer's turn
moves the block on, and a whole enabled frame with no sink. -/

namespace Sys2Proof.Machine

/-! ### The steps that enter a mode -/

/-- What is left of a step changes nothing of what its query has done. -/
theorem Interrupted.Queried.finishStep {k : Interrupted} {s u : State} (h : k.Queried s u) :
    k.Queried s (finishStep k u) := by
  simpa only [Interrupted.Queried, finishStep_regs, finishStep_armed, finishStep_irqTrace] using h

/-- A delivered notification leaves the registers, the tracker and the trace written and the window open (R216). -/
theorem queryPart_of_delivered {k : Interrupted} {s : State} (hd : k.delivered s = true) :
    queryPart k s = { s with regs := (queryPart k s).regs, armed := (queryPart k s).armed
                             irqTrace := (queryPart k s).irqTrace, window := some k } := by
  have hwin : (queryPart k s).window = some k := by rw [queryPart_window, hd]; rfl
  rw [← hwin]
  exact queryPart_frame k s

/-- Without one no window opens. -/
theorem queryPart_of_not_delivered {k : Interrupted} {s : State} (hd : k.delivered s = false) :
    queryPart k s = { s with regs := (queryPart k s).regs, armed := (queryPart k s).armed
                             irqTrace := (queryPart k s).irqTrace } := by
  have hwin : (queryPart k s).window = s.window := by rw [queryPart_window, hd]; rfl
  rw [← hwin]
  exact queryPart_frame k s

/-- A step that queries the tracker has done its query when it answers; a delivered notification stops it at the
window, and otherwise it also does the rest of its work, of which `P` is to be shown (R190, R194, R216). -/
theorem exec_queried {k : Interrupted} {s : State} (hw : s.window = none) {P : State → Prop}
    (hP : k.delivered s = false → P (finishStep k (queryPart k s))) :
    ∃ t, exec k.instr s = .next t ∧ k.Queried s t ∧
      (k.delivered s = true → t = { s with
        regs := t.regs, armed := t.armed, irqTrace := t.irqTrace, window := some k }) ∧
      (k.delivered s = false → P t) := by
  cases hd : k.delivered s with
  | true => exact ⟨_, exec_delivered hd, queryPart_queried k s, fun _ => queryPart_of_delivered hd, nofun⟩
  | false => exact ⟨_, exec_undelivered hw hd, (queryPart_queried k s).finishStep, nofun, fun _ => hP hd⟩

/-- Settles O38: what is left after the query is the scan of line 0. -/
theorem sqBeginStartsLineZero : Obligations.SqBeginStartsLineZero := by
  refine fun s hw => exec_queried (k := .sqBegin) hw fun hd => ⟨rfl, ?_, ?_⟩
  · simp only [finishStep_sb, queryPart_mem, queryPart_lcdc]
  · rw [queryPart_of_not_delivered hd]; rfl

/-- Settles O39: what is left after the query is the composition of line LY, which the query does not move. -/
theorem sqXferComposesLine : Obligations.SqXferComposesLine := by
  intro s hw hly
  have hfb : (finishStep .sqXfer (queryPart .sqXfer s)).fb =
      s.fb.setIfInBounds s.regs.ly.toNat (lineOf s s.regs.ly.toNat) := by
    simp only [finishStep_fb, queryPart_fb, queryPart_ly, lineOf_queryPart, Interrupted.line]
  refine exec_queried (k := .sqXfer) hw fun hd => ⟨rfl, fun c hc => ?_, fun l hl hne => ?_, ?_⟩
  · simp only [hfb, Vector.getElem_setIfInBounds_self, lineOf, Vector.getElem_ofFn]
  · simp only [hfb, Vector.getElem_setIfInBounds_ne _ hne.symm]
  · rw [queryPart_of_not_delivered hd]; rfl

/-- Settles O40: what is left of either step after its query is the phase. -/
theorem sqHblAndSqVblEnter : Obligations.SqHblAndSqVblEnter := by
  refine fun s hw => ⟨exec_queried (k := .sqHbl) hw fun hd => ⟨rfl, ?_⟩,
    exec_queried (k := .sqVbl) hw fun hd => ⟨rfl, ?_⟩⟩
  all_goals rw [queryPart_of_not_delivered hd]; rfl

/-- Settles O41: what is left after the query is the scan of the line that LY was advanced to before it. -/
theorem sqLineAdvances : Obligations.SqLineAdvances := by
  refine fun s hw => exec_queried (k := .sqLine) hw fun hd => ⟨rfl, ?_, ?_⟩
  · simp only [finishStep_sb, queryPart_mem, queryPart_lcdc, queryPart_ly, Interrupted.line]
  · rw [queryPart_of_not_delivered hd]; rfl

/-! ### Every step moves the block on -/

/-- The step a sequencer position selects completes (R203). -/
theorem exec_selected {s : State} {i : Instr} (h : selected s = some i) : ∃ t, exec i s = .next t := by
  obtain ⟨rfl, -⟩ | ⟨rfl, -⟩ | ⟨k, rfl, -⟩ := selected_cases h
  · exact ⟨_, rfl⟩
  · exact ⟨_, rfl⟩
  · exact ⟨_, exec_interrupted k s⟩

/-- A finished step has left the phase it was selected at, but SQ_VLINE, which has advanced LY (R195 to R200). -/
theorem Interrupted.SelectsAt.finishStep_moves {k : Interrupted} {s : State} (hk : k.SelectsAt s) :
    (finishStep k (queryPart k s)).phase ≠ s.phase ∨
      (finishStep k (queryPart k s)).regs.ly ≠ s.regs.ly := by
  rw [finishStep_phase, finishStep_regs, queryPart_ly]
  cases k with
  | sqVline => exact .inr (by simp only [Interrupted.line]; bv_omega)
  | sqXfer | sqHbl => exact .inl (by rw [show s.phase = _ from hk]; nofun)
  | sqBegin | sqLine | sqVbl => exact .inl (by rw [hk.1]; nofun)

/-- Settles O51: SQ_BLANK and SQ_END leave their phase for WAIT, and each of the other steps opens the window or is
finished. -/
theorem sequencerNeverStops : Obligations.SequencerNeverStops := by
  intro s ht
  obtain ⟨hw, hp⟩ := not_hostTurn ht
  obtain ⟨i, hi⟩ := selected_ne_none hp
  simp only [Safe, step_selected hw hi]
  refine ⟨exec_selected hi, fun t h he => ?_⟩
  obtain ⟨hphase, hly, hwin⟩ : t.phase = s.phase ∧ t.regs.ly = s.regs.ly ∧ t.window = s.window := by
    simpa only [Prod.mk.injEq] using he
  obtain rfl | rfl | ⟨k, hk, ⟨hd, rfl⟩ | ⟨-, rfl⟩⟩ := sequencerTurn_cases hw hi h
  · exact hp hphase.symm
  · exact hp hphase.symm
  · simp [queryPart_window, hd, hw] at hwin
  · exact hk.finishStep_moves.elim (· hphase) (· hly)

/-! ### A whole frame -/

theorem run_one {s t : State} (h : step s = .next t) : core.run 1 s = .next t := run_next h 0

theorem sequencerRun_one {s : State} (h : s.hostTurn = false) : SequencerRun s 1 := by
  intro j hj
  obtain rfl : j = 0 := by omega
  exact ⟨s, rfl, h⟩

/-- The firing in VERTICAL_BLANK is at line 144, or else the first the polls of the nine lines after it give. -/
theorem vblankFiring_eq (st lyc : Byte) : vblankFiring st lyc false =
    if condAt st lyc .vbl 144 then [{ ly := 144, mode := .vbl, sink := false }]
    else (((List.range 9).map (· + 145)).find? fun n => condAt st lyc .vbl (BitVec.ofNat 8 n)).toList.map
      fun n => { ly := BitVec.ofNat 8 n, mode := .vbl, sink := false } := by
  have hlines : (List.range 10).map (· + 144) = 144 :: (List.range 9).map (· + 145) := rfl
  rw [vblankFiring, hlines, List.find?_cons]
  cases condAt st lyc .vbl 144 <;> rfl

/-- SQ_VBL, after the last visible line: VERTICAL_BLANK is entered at line 144, armed unless it fires there
(R199, R212). -/
theorem run_vbl {s u : State} (hS : FrameOf s u) (hs : s.sink = false) (hp : u.phase = .hbl)
    (hly : u.regs.ly = 143) :
    ∃ v, FrameOf s v ∧ v.phase = .vbl ∧ v.regs.ly = 144 ∧ v.fb = u.fb ∧ modeField v.regs.stat = 1 ∧
      core.run 1 u = .next v ∧ SequencerRun u 1 ∧
      v.irqTrace = u.irqTrace ++ (if condAt s.regs.stat s.regs.lyc .vbl 144 then
        [{ ly := 144, mode := .vbl, sink := false }] else []) ∧
      v.armed.vbl = !condAt s.regs.stat s.regs.lyc .vbl 144 := by
  obtain ⟨hS', hsu⟩ := hS.next hs .sqVbl
  obtain ⟨hstep, hturn⟩ := step_unsunk (k := .sqVbl) hS.window hsu (by simp only [selected, hp, hly]; rfl)
  obtain ⟨hline, hmode, -, -, -, harmed, -⟩ := queryPart_queried .sqVbl u
  refine ⟨_, hS', rfl, ?_, ?_, ?_, run_one hstep, sequencerRun_one hturn,
    FrameOf.irqTrace_next .sqVbl hS hs rfl, ?_⟩
  · rw [finishStep_regs, hline]; rfl
  · simp only [finishStep_fb, queryPart_fb]
  · rw [finishStep_regs, hmode]; rfl
  · rw [finishStep_armed]
    refine harmed.trans ?_
    simp only [Interrupted.fires, Interrupted.enters, Bool.true_or, Bool.true_and, hS.condAt_eq]
    rfl

/-- What an enabled frame that started in `s` has left when it is over (R183, R192, R201, R202, R215). -/
structure FrameOver (s t : State) : Prop extends FrameOf s t where
  phase   : t.phase = .wait
  ly      : t.regs.ly = 153
  mode    : modeField t.regs.stat = 1
  matched : matchFlag t.regs.stat = (s.regs.lyc == 153)
  drawn   : Drawn s t 144
  fired   : t.irqTrace = s.irqTrace ++ frameFirings s.regs.stat s.regs.lyc false

theorem FrameOf.setPhase {s u : State} (h : FrameOf s u) (p : Phase) : FrameOf s (u.setPhase p) where
  window := h.window
  regs := h.regs
  host := h.host
  frame := congrArg (State.setPhase · p) h.frame

/-- An enabled frame with no sink: 432 steps for the visible lines, SQ_VBL, nine polls, and SQ_END (R202). -/
theorem run_frame {s : State} (hw : s.window = none) (hp : s.phase = .start) (hl : lcdEn s.regs.lcdc = true)
    (hs : s.sink = false) : ∃ t, core.run 443 s = .next t ∧ SequencerRun s 443 ∧ FrameOver s t := by
  obtain ⟨a, hSa, hpa, hlya, hdrawn, hruna, hturna, htra⟩ := run_lines hw hp hl hs 143 (by decide)
  obtain ⟨b, hSb, hpb, hlyb, hfbb, hmodeb, hrunb, hturnb, htrb, harmed⟩ := run_vbl hSa hs hpa hlya
  obtain ⟨c, hSc, hpc, hlyc, hfbc, hmodec, hmatch, hrunc, hturnc, htrc, -⟩ :=
    run_polls hs 9 (by decide) b hSb hpb hlyb hmodeb
  have hsel : selected c = some .sqEnd := by simp only [selected, hpc, hlyc]; rfl
  have hend : core.run 1 c = .next (c.setPhase .wait) := run_one (step_selected hSc.window hsel)
  have hturn : c.hostTurn = false := by simp [State.hostTurn, hSc.window, hpc]
  refine ⟨c.setPhase .wait, ?_, ?_, { hSc.setPhase .wait with
    phase := rfl, ly := hlyc, mode := hmodec, matched := ?_, drawn := fun l hl hn => ?_, fired := ?_ }⟩
  · calc core.run 443 s = core.run 11 a := run_add (n := 11) hruna
      _ = core.run 10 b := run_add (n := 10) hrunb
      _ = core.run 1 c := run_add (n := 1) hrunc
      _ = .next (c.setPhase .wait) := hend
  · have hturnc' : SequencerRun c 1 := sequencerRun_one hturn
    exact hturna.add hruna (hturnb.add hrunb (hturnc.add hrunc hturnc'))
  · refine (hmatch (by decide)).trans ?_
    rw [hlyc, BEq.comm]
    rfl
  · simp only [State.setPhase_fb, hfbc, hfbb]
    exact hdrawn l hl hn
  · rw [State.setPhase_irqTrace, htrc, htrb, htra, harmed, frameFirings, vblankFiring_eq]
    cases condAt s.regs.stat s.regs.lyc .vbl 144 <;> simp

/-- Settles O52: by the run of `run_frame`. -/
theorem frameTakes443Steps : Obligations.FrameTakes443Steps := by
  intro s hw hp hl hs
  obtain ⟨t, hrun, hturn, ht⟩ := run_frame hw hp hl hs
  exact ⟨hturn, t, hrun, ht.phase, ht.window, ht.ly, ht.mode, ht.matched, ht.host⟩

/-- Settles O53: the state the run ends in is the one `run_frame` describes, with its 144 lines drawn. -/
theorem frameDrawsEveryLine : Obligations.FrameDrawsEveryLine := by
  intro s t hw hp hl hs hrun
  obtain ⟨t', hrun', -, ht⟩ := run_frame hw hp hl hs
  obtain rfl : t' = t := Host.Outcome.next.inj (hrun'.symm.trans hrun)
  refine ⟨fun l c hl hc => ?_, ht.regs, ht.frame⟩
  simp only [ht.drawn l hl hl, frameLine, lineOf, Vector.getElem_ofFn]

end Sys2Proof.Machine
end

section
/-! PROOFS. The notifications (R211 to R220): the query of an armed mode, the window it opens and what follows when the
window closes, how often an entry and a whole frame fire; and what the host's operations never touch (R225). -/

namespace Sys2Proof.Machine

/-! ### The query and the polls -/

/-- A query of an armed mode whose condition holds takes the mode's flag and notifies (R212). -/
theorem query_of_fires {s : State} {m : Mode} (ha : s.armed.get m = true) (hc : cond s.regs.stat m = true)
    (k : Interrupted) : query k m s = notify k m (s.setArmed m false) := by
  simp only [query, ha, hc, Bool.and_self, if_true]

/-- Any other query does nothing (R212). -/
theorem query_of_not_fires {s : State} {m : Mode} (h : s.armed.get m = false ∨ cond s.regs.stat m = false)
    (k : Interrupted) : query k m s = s := by
  obtain h | h := h <;> simp [query, h]

/-- Settles O46: the enables of R213 read off, then the query by whether it fires. -/
theorem notificationCondition : Obligations.NotificationCondition := by
  refine ⟨fun _ => ⟨rfl, rfl, rfl, rfl⟩, fun s k m => ⟨fun ha hc => ?_, fun h => query_of_not_fires h k⟩⟩
  rw [query_of_fires ha hc]
  refine ⟨rfl, Armed.get_set_same _ _ _, fun m' hm => ?_⟩
  exact (Armed.get_set s.armed m m' false).trans (if_neg hm)

/-- The firings of a poll and the flag it leaves add up to the flag it finds: nothing is re-armed (R191, R212). -/
theorem pollMode_spends_flag (k : Interrupted) (m : Mode) (s : State) :
    ∃ added, (pollMode k m s).irqTrace = s.irqTrace ++ added ∧
      added.length + ((pollMode k m s).armed.get m).toNat = (s.armed.get m).toNat := by
  rw [pollMode_eq]
  refine ⟨_, rfl, ?_⟩
  simp only [Armed.get_set_same]
  cases s.armed.get m <;> cases condAt s.regs.stat s.regs.lyc m s.regs.ly <;> rfl

/-- Polls of one mode, LY and STAT holding the listed bytes at each. -/
def polls (k : Interrupted) (m : Mode) (between : List (Byte × Byte)) (s : State) : State :=
  between.foldl (fun u p => pollMode k m ((u.setReg .ly p.1).setReg .stat p.2)) s

/-- Any number of polls fires at most once, and not at all on a mode that is not armed (R212, R215). -/
theorem polls_irqTrace (k : Interrupted) (m : Mode) (between : List (Byte × Byte)) (s : State) :
    ∃ added, (polls k m between s).irqTrace = s.irqTrace ++ added ∧ added.length ≤ (s.armed.get m).toNat := by
  induction between generalizing s with
  | nil => exact ⟨[], (List.append_nil _).symm, Nat.zero_le _⟩
  | cons p between ih =>
    obtain ⟨now, hnow, hflag⟩ := pollMode_spends_flag k m ((s.setReg .ly p.1).setReg .stat p.2)
    obtain ⟨later, hlater, hle⟩ := ih (pollMode k m ((s.setReg .ly p.1).setReg .stat p.2))
    refine ⟨now ++ later, ?_, ?_⟩
    · calc (polls k m (p :: between) s).irqTrace
          = (pollMode k m ((s.setReg .ly p.1).setReg .stat p.2)).irqTrace ++ later := hlater
        _ = s.irqTrace ++ (now ++ later) := by rw [hnow, List.append_assoc]; rfl
    · simp only [State.setReg_armed] at hflag
      rw [List.length_append]
      omega

theorem enterMode_irqTrace (k : Interrupted) (m : Mode) (s : State) :
    (enterMode k m s).irqTrace = s.irqTrace ++ (if condAt s.regs.stat s.regs.lyc m s.regs.ly then
      [{ ly := s.regs.ly, mode := m, sink := s.sink }] else []) := by
  rw [enterMode_eq]

/-- An entry leaves its mode armed exactly if it has not fired (R190, R212). -/
theorem enterMode_armed_get (k : Interrupted) (m : Mode) (s : State) :
    (enterMode k m s).armed.get m = !condAt s.regs.stat s.regs.lyc m s.regs.ly := by
  rw [enterMode_eq]
  exact Armed.get_set_same _ _ _

/-- Settles O47: an entry fires and disarms, or leaves its mode armed for one firing by the polls. -/
theorem atMostOneFiringPerEntry : Obligations.AtMostOneFiringPerEntry := by
  intro s k m between
  obtain ⟨added, htrace, hle⟩ := polls_irqTrace k m between (enterMode k m s)
  rw [enterMode_irqTrace, List.append_assoc] at htrace
  rw [enterMode_armed_get] at hle
  refine ⟨_, htrace, ?_⟩
  cases hc : condAt s.regs.stat s.regs.lyc m s.regs.ly with
  | true =>
    obtain rfl : added = [] := List.eq_nil_of_length_eq_zero (by simpa [hc] using hle)
    exact ⟨Nat.le_refl 1, fun _ => rfl⟩
  | false => exact ⟨by simpa [hc] using hle, nofun⟩

/-! ### The window -/

/-- SQ_VLINE is its query part, whether or not a window opens: nothing is left after it (R200). -/
theorem exec_sqVline (s : State) : exec .sqVline s = .next (queryPart .sqVline s) :=
  (exec_interrupted .sqVline s).trans (congrArg _ (ite_self _))

/-- Settles O42: a poll of VERTICAL_BLANK is the whole of SQ_VLINE. -/
theorem sqVlinePolls : Obligations.SqVlinePolls := by
  refine fun s hw => ⟨_, exec_sqVline s, queryPart_queried _ s, ?_⟩
  rw [← hw, ← queryPart_window]
  exact queryPart_frame .sqVline s

/-- Closing the window runs the rest of the step it stopped (R218). -/
theorem resumeStep_of_window {s : State} {k : Interrupted} (hw : s.window = some k) :
    resumeStep s = .next (finishStep k { s with window := none }) := by
  simp only [resumeStep, hw]

/-- Settles O44: the host's turn closes the window, and what is left is `finishStep` of the stopped step. -/
theorem closingResumesStep : Obligations.ClosingResumesStep := by
  intro s k rest hw hin
  have hturn : s.hostTurn = true := by simp [State.hostTurn, hw]
  have hstep : step s = .next (finishStep k { s with inbox := rest, window := none }) :=
    (step_of_hostTurn hturn hin).trans (resumeStep_of_window (s := { s with inbox := rest }) hw)
  refine ⟨_, hstep, finishStep_window k _, ?_, finishStep_frame k _, ?_⟩
  · rw [finishStep_frame]
  · cases k <;> exact ⟨rfl, rfl, rfl⟩

/-- What is left of a step does not look at the sink, the trace or what the host port holds (R86, R217). -/
theorem finishStep_hostPort (k : Interrupted) (s : State) (b : Bool) (tr : List TraceEntry)
    (r : Option Response) (q : List HostInput) :
    finishStep k { s with sink := b, irqTrace := tr, response := r, inbox := q } =
      { finishStep k s with sink := b, irqTrace := tr, response := r, inbox := q } := by
  cases k <;> rfl

/-- The sink shows in a query in its mark in the trace and in the window, nowhere else (R214). -/
theorem queryPart_of_other_sink (k : Interrupted) (s : State) (b : Bool) :
    queryPart k s =
      { queryPart k { s with sink := b } with
        sink := s.sink, irqTrace := (queryPart k s).irqTrace, window := (queryPart k s).window } := by
  cases k <;> simp only [queryPart, enterMode_eq, pollMode_eq] <;> rfl

/-- Once its window is closed, a query with a sink has done what it does without one (R214, R218). -/
theorem queryPart_closed {s : State} (hw : s.window = none) (k : Interrupted) :
    { queryPart k s with window := none } =
      { queryPart k { s with sink := false } with sink := s.sink, irqTrace := (queryPart k s).irqTrace } := by
  have hwin : (queryPart k { s with sink := false }).window = none := by
    rw [queryPart_window, Interrupted.delivered, Bool.and_false]; exact hw
  rw [← hwin, queryPart_of_other_sink k s false]

/-- The trace after a query that fires. -/
theorem queryPart_irqTrace_of_fires {k : Interrupted} {s : State} (h : k.fires s = true) :
    (queryPart k s).irqTrace = s.irqTrace ++ [{ ly := k.line s, mode := k.mode, sink := s.sink }] := by
  obtain ⟨-, -, -, -, -, -, -, htrace⟩ := queryPart_queried k s
  rw [htrace, h, if_pos rfl]

/-- Settles O45: both runs do the same query but for the sink's mark and the window, and then the same rest. -/
theorem sinkDoesNotChangeTheFrame : Obligations.SinkDoesNotChangeTheFrame := by
  intro s k r q hw hd
  obtain ⟨hf, hs⟩ : k.fires s = true ∧ s.sink = true := by simpa [Interrupted.delivered] using hd
  have hd' : k.delivered { s with sink := false } = false := Bool.and_false _
  have hwin : (queryPart k s).window = some k := by rw [queryPart_window, hd]; rfl
  refine ⟨_, _, exec_delivered hd, hwin, exec_undelivered hw hd', ?_, ?_, ?_⟩
  · calc resumeStep { queryPart k s with response := r, inbox := q }
        = .next (finishStep k { ({ queryPart k s with window := none } : State) with response := r, inbox := q }) :=
          resumeStep_of_window (s := { queryPart k s with response := r, inbox := q }) hwin
      _ = .next (finishStep k { queryPart k { s with sink := false } with
            sink := true, irqTrace := (queryPart k s).irqTrace, response := r, inbox := q }) := by
          rw [queryPart_closed hw, hs]
      _ = _ := congrArg _ (finishStep_hostPort ..)
  · rw [finishStep_irqTrace]
    exact queryPart_irqTrace_of_fires (s := { s with sink := false }) hf
  · rw [queryPart_irqTrace_of_fires hf, hs]

/-! ### What the host's operations touch -/

/-- What a host operation that answers a next state has done: answered (INIT also attaches), written a register or
memory, started a frame, or installed a sink (R130 to R141). -/
theorem exec_host_cases {i : Instr} {s t : State} (hh : i.isHost = true) (h : exec i s = .next t) :
    (∃ r a, t = { s with response := r, attached := a }) ∨
    (∃ r v, (r = .ly → i = .wrreg .ly v) ∧ t = (s.hostWriteReg r v).respond none) ∨
    (∃ m, ((∃ a v, i = .wrmem a v) ∨ ∃ d, i = .ldoam d) ∧ t = (s.setMem m).respond none) ∨
    (∃ c0 c1 c2 c3, i = .render c0 c1 c2 c3 ∧ t = { s with
      response := none, opal := { c0 := c0, c1 := c1, c2 := c2, c3 := c3 }, phase := .start }) ∨
    (∃ e, t = { s with response := none, sink := e }) := by
  cases i <;> simp only [Instr.isHost, reduceCtorEq] at hh <;> simp only [exec] at h
  case init =>
    obtain ⟨-, -, -, h⟩ := unattached_of_whenUnattached h
    split at h <;> cases h <;> exact .inl ⟨_, _, rfl⟩
  case rdreg | rdmem =>
    obtain ⟨-, h⟩ := readable_of_whenReadable h
    cases h; exact .inl ⟨_, _, rfl⟩
  case wrreg r v =>
    obtain ⟨-, h⟩ := idle_of_whenIdle h
    cases h; exact .inr (.inl ⟨r, v, by rintro rfl; rfl, rfl⟩)
  case setf r m | clrf r m =>
    simp only [execSetf, execClrf] at h
    split at h
    · next hr =>
      obtain ⟨-, h⟩ := idle_of_whenIdle h
      cases h; exact .inr (.inl ⟨r, _, fun e => absurd hr (by subst e; decide), rfl⟩)
    · cases h
  case wrmem a v =>
    obtain ⟨-, h⟩ := idle_of_whenIdle h
    cases h; exact .inr (.inr (.inl ⟨_, .inl ⟨a, v, rfl⟩, rfl⟩))
  case ldoam burst =>
    simp only [execLdoam] at h
    split at h
    · obtain ⟨-, h⟩ := idle_of_whenIdle h
      cases h; exact .inr (.inr (.inl ⟨_, .inr ⟨burst, rfl⟩, rfl⟩))
    · cases h
  case render =>
    obtain ⟨-, h⟩ := idle_of_whenIdle h
    cases h; exact .inr (.inr (.inr (.inl ⟨_, _, _, _, rfl, rfl⟩)))
  case setirq =>
    obtain ⟨-, h⟩ := idle_of_whenIdle h
    cases h; exact .inr (.inr (.inr (.inr ⟨_, rfl⟩)))

/-- Settles O50: by what the operation has done. -/
theorem hostWritesOnlyItsOwn : Obligations.HostWritesOnlyItsOwn := by
  intro i s t hh h
  obtain ⟨r, a, rfl⟩ | ⟨r, v, hly, rfl⟩ | ⟨m, hmem, rfl⟩ | ⟨c0, c1, c2, c3, rfl, rfl⟩ | ⟨e, rfl⟩ :=
    exec_host_cases hh h
  · exact ⟨rfl, fun _ => ⟨rfl, rfl⟩, fun _ => rfl, fun _ _ => rfl⟩
  · have hframe := hostWriteReg_frame s r v
    refine ⟨?_, fun _ => ?_, fun hne => ?_, fun _ _ => ?_⟩
    · rw [hframe]; rfl
    · rw [hframe]; exact ⟨rfl, rfl⟩
    · exact hostWriteReg_get_other (r' := .ly) (fun e => hne v (hly e.symm)) v
    · rw [hframe]; rfl
  · refine ⟨rfl, fun _ => ⟨rfl, rfl⟩, fun _ => rfl, fun hw hl => ?_⟩
    obtain ⟨a, v, rfl⟩ | ⟨d, rfl⟩ := hmem
    · exact absurd rfl (hw a v)
    · exact absurd rfl (hl d)
  · exact ⟨rfl, fun hne => absurd rfl (hne c0 c1 c2 c3), fun _ => rfl, fun _ _ => rfl⟩
  · exact ⟨rfl, fun _ => ⟨rfl, rfl⟩, fun _ => rfl, fun _ _ => rfl⟩

/-! ### One step -/

/-- A query appends its one firing to the trace, or nothing (R212, R220). -/
theorem queryPart_trace_grows (k : Interrupted) (s : State) :
    ∃ added, (queryPart k s).irqTrace = s.irqTrace ++ added ∧ added.length ≤ 1 := by
  obtain ⟨-, -, -, -, -, -, -, htrace⟩ := queryPart_queried k s
  refine ⟨_, htrace, ?_⟩
  split <;> simp

/-- Settles O48: the query part of a sequencer step is the only thing that appends to the trace. -/
theorem traceGrowsByAtMostOne : Obligations.TraceGrowsByAtMostOne := by
  intro s t h
  have same : t.irqTrace = s.irqTrace → ∃ added, t.irqTrace = s.irqTrace ++ added ∧ added.length ≤ 1 :=
    fun e => ⟨[], by rw [e, List.append_nil], Nat.zero_le 1⟩
  obtain ⟨-, -, rfl⟩ | ⟨-, w, d, rest, i, -, -, hh, he⟩ | ⟨k, q, -, -, rfl⟩ | ⟨-, -, rest, -, rfl⟩ |
    ⟨-, -, n, cs, rest, -, rfl⟩ | ⟨hw, -, i, hsel, he⟩ := step_cases h
  · exact same rfl
  · obtain ⟨hframe, -⟩ := hostWritesOnlyItsOwn i _ t hh he
    exact same (by rw [hframe])
  · exact same (finishStep_irqTrace k _)
  · exact same rfl
  · exact same rfl
  · obtain rfl | rfl | ⟨k, -, ⟨-, rfl⟩ | ⟨-, rfl⟩⟩ := sequencerTurn_cases hw hsel he
    · exact same rfl
    · exact same rfl
    · exact queryPart_trace_grows k s
    · rw [finishStep_irqTrace]; exact queryPart_trace_grows k s

/-! ### One frame -/

/-- Settles O54: the state the run ends in is the one `run_frame` describes, with its firings traced. -/
theorem frameFiresAsListed : Obligations.FrameFiresAsListed := by
  intro s t hw hp hl hs hrun
  obtain ⟨t', hrun', -, ht⟩ := run_frame hw hp hl hs
  obtain rfl : t' = t := Host.Outcome.next.inj (hrun'.symm.trans hrun)
  exact ht.fired

/-- The condition at line `n`: the mode's own enable, or the line compare with LYC (R213). -/
theorem condAt_line_iff {n : Nat} (hn : n < 256) (st lyc : Byte) (m : Mode) :
    condAt st lyc m (BitVec.ofNat 8 n) = true ↔ modeEnable st m = true ∨ (ieLyc st = true ∧ lyc.toNat = n) := by
  have hline : BitVec.ofNat 8 n = lyc ↔ lyc.toNat = n := by
    rw [← BitVec.toNat_inj, BitVec.toNat_ofNat, Nat.mod_eq_of_lt hn, eq_comm]
  simp only [condAt, Bool.or_eq_true, Bool.and_eq_true, beq_iff_eq, hline]

/-- The entries of a line that have no enable of their own, or have it off. -/
def unenabledEntries (st : Byte) : Nat := 1 + (!ieOam st).toNat + (!ieHbl st).toNat

/-- The firings of one line: its enabled entries, and on line LYC with IE_LYC the others too (R215). -/
theorem length_lineFirings {n : Nat} (hn : n < 256) (st lyc : Byte) (sink : Bool) :
    (lineFirings st lyc sink n).length = (ieOam st).toNat + (ieHbl st).toNat +
      (if ieLyc st = true ∧ lyc.toNat = n then unenabledEntries st else 0) := by
  simp only [lineFirings, List.length_map, List.filter_cons, List.filter_nil, condAt_line_iff hn, modeEnable,
    unenabledEntries]
  by_cases hc : ieLyc st = true ∧ lyc.toNat = n
  · simp only [hc, or_true, and_self, if_true, List.length_cons, List.length_nil]
    cases ieOam st <;> cases ieHbl st <;> rfl
  · simp only [hc, or_false, Bool.false_eq_true, if_false]
    cases ieOam st <;> cases ieHbl st <;> rfl

/-- The firings of the lines below `n`: the enabled entries of each, and the others once, if line LYC is among them. -/
theorem length_visibleFirings {n : Nat} (hn : n ≤ 256) (st lyc : Byte) (sink : Bool) :
    ((List.range n).flatMap (lineFirings st lyc sink)).length = n * (ieOam st).toNat + n * (ieHbl st).toNat +
      (if ieLyc st = true ∧ lyc.toNat < n then unenabledEntries st else 0) := by
  induction n with
  | zero => simp
  | succ n ih =>
    have hsplit : (if ieLyc st = true ∧ lyc.toNat < n + 1 then unenabledEntries st else 0) =
        (if ieLyc st = true ∧ lyc.toNat < n then unenabledEntries st else 0) +
          (if ieLyc st = true ∧ lyc.toNat = n then unenabledEntries st else 0) := by
      obtain h | h | h := Nat.lt_trichotomy lyc.toNat n
      · simp [h, Nat.lt_succ_of_lt h, Nat.ne_of_lt h]
      · simp [h]
      · simp [Nat.not_lt_of_gt h, Nat.ne_of_gt h, Nat.not_lt_of_le h]
    rw [List.range_succ, List.flatMap_append, List.length_append, ih (by omega), List.flatMap_singleton,
      length_lineFirings (by omega), hsplit, Nat.succ_mul, Nat.succ_mul]
    omega

theorem mem_vblankLines {n : Nat} : n ∈ (List.range 10).map (· + 144) ↔ 144 ≤ n ∧ n ≤ 153 := by
  simp only [List.mem_map, List.mem_range]
  exact ⟨fun ⟨a, ha, e⟩ => by omega, fun ⟨h1, h2⟩ => ⟨n - 144, by omega, by omega⟩⟩

/-- VERTICAL_BLANK fires once, if at all: when its enable is on or the line compare holds on one of its lines (R215). -/
theorem length_vblankFiring (st lyc : Byte) (sink : Bool) : (vblankFiring st lyc sink).length =
    if ieVbl st = true ∨ (ieLyc st = true ∧ 144 ≤ lyc.toNat ∧ lyc.toNat ≤ 153) then 1 else 0 := by
  have found : (((List.range 10).map (· + 144)).find? fun n => condAt st lyc .vbl (BitVec.ofNat 8 n)).isSome = true ↔
      ieVbl st = true ∨ (ieLyc st = true ∧ 144 ≤ lyc.toNat ∧ lyc.toNat ≤ 153) := by
    simp only [List.find?_isSome, mem_vblankLines]
    constructor
    · rintro ⟨n, ⟨h1, h2⟩, hc⟩
      exact ((condAt_line_iff (by omega) st lyc .vbl).mp hc).imp_right fun ⟨hl, e⟩ => ⟨hl, by omega, by omega⟩
    · rintro (hv | ⟨hl, h1, h2⟩)
      · exact ⟨144, by decide, (condAt_line_iff (by decide) st lyc .vbl).mpr (.inl hv)⟩
      · exact ⟨lyc.toNat, ⟨h1, h2⟩, (condAt_line_iff lyc.isLt st lyc .vbl).mpr (.inr ⟨hl, rfl⟩)⟩
  rw [vblankFiring, List.length_map, Option.length_toList]
  simp only [found]

/-- Settles O55: 144 visible lines and VERTICAL_BLANK. -/
theorem firingsPerFrame : Obligations.FiringsPerFrame := by
  intro st lyc sink
  rw [frameFirings, List.length_append, length_visibleFirings (by decide), length_vblankFiring]
  simp only [unenabledEntries, Nat.lt_succ_iff]
  cases ieOam st <;> cases ieHbl st <;> rfl

end Sys2Proof.Machine
end

section
/-! PROOFS. Words the decoder rejects for their register number, and words written out from the tables (R102 to R108,
R113). -/

namespace Sys2Proof

/-! ### Reserved register numbers -/

/-- Numbers 6 and 12 to 15 name no register (R30). -/
theorem ofNumber_eq_none_of_gap : ∀ n : BitVec 4, n.toNat ∈ [6, 12, 13, 14, 15] → Reg.ofNumber n = none := by
  decide

/-- LCDC and STAT are the registers with numbers 0 and 1. -/
theorem number_mem_of_isFlagReg {r : Reg} (h : r.isFlagReg = true) : r.number.toNat ∈ [0, 1] := by
  cases r <;> revert h <;> decide

section
variable {w : CommandWord}

theorem regOperand_of_no_register (h : Reg.ofNumber (fieldReg w) = none) (k : Reg → Instr) :
    regOperand w k = .error .reservedEncoding := by
  simp only [regOperand, h]

theorem flagRegOperand_of_no_register (h : Reg.ofNumber (fieldReg w) = none) (k : Reg → Instr) :
    flagRegOperand w k = .error .reservedEncoding := by
  simp only [flagRegOperand, h]

/-- A number that names neither LCDC nor STAT is reserved in a flag operation (R113). -/
theorem flagRegOperand_of_no_flag_register (h : (fieldReg w).toNat ∉ [0, 1]) (k : Reg → Instr) :
    flagRegOperand w k = .error .reservedEncoding := by
  unfold flagRegOperand
  split
  · next r hr =>
    refine if_neg fun hf => h ?_
    rw [← number_of_ofNumber hr]
    exact number_mem_of_isFlagReg hf
  · rfl

/-- An opcode byte among those of some rows is the opcode of one of them. -/
theorem exists_row_of_opcode_mem {ops : List HostOp} (h : (fieldOp w).toNat ∈ ops.map (·.opcode.toNat)) :
    ∃ op ∈ ops, fieldOp w = op.opcode := by
  obtain ⟨op, hop, e⟩ := List.mem_map.mp h
  exact ⟨op, hop, BitVec.eq_of_toNat_eq e.symm⟩

/-- Reserved operands make a word reserved, whether or not its row accepts it (R104, R113). -/
theorem decodeHost_of_reserved_operands {op : HostOp} {d : List Byte} (hop : fieldOp w = op.opcode)
    (hr : readOperands w d op = .error .reservedEncoding) : decodeHost w d = .error .reservedEncoding := by
  simp only [decodeHost, hop, ofOpcode_opcode, hr, ite_self]

/-- A flag operation on another register than LCDC and STAT is reserved. -/
theorem decodeHost_of_no_flag_register (hop : (fieldOp w).toNat ∈ [4, 5]) (hn : (fieldReg w).toNat ∉ [0, 1])
    (d : List Byte) : decodeHost w d = .error .reservedEncoding := by
  obtain ⟨op, hmem, hop⟩ := exists_row_of_opcode_mem (ops := [.setf, .clrf]) hop
  refine decodeHost_of_reserved_operands hop ?_
  simp only [List.mem_cons, List.not_mem_nil, or_false] at hmem
  obtain rfl | rfl := hmem <;> exact flagRegOperand_of_no_flag_register hn _

/-- An operation on a register number that names none is reserved. -/
theorem decodeHost_of_no_register (hop : (fieldOp w).toNat ∈ [2, 3, 4, 5])
    (hn : (fieldReg w).toNat ∈ [6, 12, 13, 14, 15]) (d : List Byte) :
    decodeHost w d = .error .reservedEncoding := by
  have hnone := ofNumber_eq_none_of_gap _ hn
  obtain ⟨op, hmem, hrow⟩ := exists_row_of_opcode_mem (ops := [.rdreg, .wrreg, .setf, .clrf]) hop
  refine decodeHost_of_reserved_operands hrow ?_
  simp only [List.mem_cons, List.not_mem_nil, or_false] at hmem
  obtain rfl | rfl | rfl | rfl := hmem
  · exact regOperand_of_no_register hnone _
  · exact regOperand_of_no_register hnone _
  · exact flagRegOperand_of_no_register hnone _
  · exact flagRegOperand_of_no_register hnone _

end

/-! ### Words written out -/

theorem decode_of_encode_eq {i : Instr} {f : Fetched} (h : encode i = f) (hwf : i.wf = true) : decode f = .ok i :=
  h ▸ decodeEncodeRoundTrip i hwf

/-- Settles O6: each word is the encoding of its operation, but SQ_XFER's, whose condition bit is 1 and not examined. -/
theorem sampleWordsDecode : Obligations.SampleWordsDecode :=
  ⟨decode_of_encode_eq rfl rfl, decode_of_encode_eq rfl rfl, decode_of_encode_eq rfl rfl, decode_of_encode_eq rfl rfl,
    decode_of_encode_eq rfl rfl, decode_of_encode_eq rfl rfl, decode_of_encode_eq rfl rfl, decode_of_encode_eq rfl rfl,
    decode_of_encode_eq rfl rfl, Machine.decodeSel_encodeSel .oam true, decode_of_encode_eq rfl rfl⟩

end Sys2Proof

namespace Sys2Proof.Machine

/-- Settles O4: such a word decodes to a reserved encoding, in whichever state the host presents it. -/
theorem reservedRegisterNumbersRefused : Obligations.ReservedRegisterNumbersRefused := by
  intro s w d rest ht hi hres
  obtain ⟨hop, hn⟩ | ⟨hop, hn⟩ := hres
  · exact step_of_decode_error ht hi (decodeHost_of_no_register hop hn d)
  · exact step_of_decode_error ht hi (decodeHost_of_no_flag_register hop hn d)

end Sys2Proof.Machine
end

section
/-! PROOFS. When the block acts on the host's operations and when it does not (R130, R131, R217, R219). -/

namespace Sys2Proof.Machine

/-! ### The acceptance rules where they refuse -/

section
variable {s : State} (k : Host.Outcome State Fault Refusal)

theorem whenIdle_of_unattached (ha : s.attached = false) (r : Refusal) : whenIdle s r k = .refused .notAttached := by
  simp [whenIdle, ha]

theorem whenIdle_of_window (ha : s.attached = true) (hw : s.window ≠ none) (r : Refusal) :
    whenIdle s r k = .refused r := by
  simp [whenIdle, ha, Option.isSome_iff_ne_none.mpr hw]

theorem whenIdle_of_frame (ha : s.attached = true) (hw : s.window = none) (hp : s.phase ≠ .wait) (r : Refusal) :
    whenIdle s r k = .refused .frameInProgress := by
  simp [whenIdle, ha, hw, hp]

theorem whenReadable_of_unattached (ha : s.attached = false) : whenReadable s k = .refused .notAttached := by
  simp [whenReadable, ha]

theorem whenReadable_of_frame (ha : s.attached = true) (hw : s.window = none) (hp : s.phase ≠ .wait) :
    whenReadable s k = .refused .frameInProgress := by
  simp [whenReadable, ha, hw, hp]

theorem whenUnattached_of_window (hw : s.window ≠ none) : whenUnattached s k = .refused .frameInProgress := by
  simp [whenUnattached, Option.isSome_iff_ne_none.mpr hw]

theorem whenUnattached_of_frame (hw : s.window = none) (hp : s.phase ≠ .wait) :
    whenUnattached s k = .refused .frameInProgress := by
  simp [whenUnattached, hw, hp]

theorem whenUnattached_of_attached (ha : s.attached = true) (hw : s.window = none) (hp : s.phase = .wait) :
    whenUnattached s k = .refused .alreadyAttached := by
  simp [whenUnattached, ha, hw, hp]

end

/-! ### The rule each operation is under -/

/-- INIT is accepted by the rule for INIT, the two reads by the rule for reads, and the others by the rule for writes,
where RENDER has its own ground inside a window (R130, R217). -/
theorem exec_host_rule {i : Instr} (hh : i.isHost = true) (hwf : i.wf = true) (s : State) :
    (i = .init ∧ ∃ k, exec i s = whenUnattached s k) ∨
    (((∃ r, i = .rdreg r) ∨ ∃ a, i = .rdmem a) ∧ ∃ k, exec i s = whenReadable s k) ∨
    ((∃ c0 c1 c2 c3, i = .render c0 c1 c2 c3) ∧ ∃ k, exec i s = whenIdle s .reentrantRender k) ∨
    ((∀ c0 c1 c2 c3, i ≠ .render c0 c1 c2 c3) ∧ ∃ k, exec i s = whenIdle s .frameInProgress k) := by
  cases i with
  | init => exact .inl ⟨rfl, _, rfl⟩
  | rdreg r => exact .inr (.inl ⟨.inl ⟨r, rfl⟩, _, rfl⟩)
  | rdmem a => exact .inr (.inl ⟨.inr ⟨a, rfl⟩, _, rfl⟩)
  | render c0 c1 c2 c3 => exact .inr (.inr (.inl ⟨⟨c0, c1, c2, c3, rfl⟩, _, rfl⟩))
  | wrreg r v | wrmem a v | setirq e => exact .inr (.inr (.inr ⟨nofun, _, rfl⟩))
  | setf r m | clrf r m => exact .inr (.inr (.inr ⟨nofun, _, if_pos hwf⟩))
  | ldoam d => exact .inr (.inr (.inr ⟨nofun, _, if_pos (eq_of_beq hwf)⟩))
  | sqBlank | sqBegin | sqXfer | sqHbl | sqLine | sqVbl | sqVline | sqEnd => cases hh

/-- Settles O10: by the rule the operation is under. -/
theorem hostOperationsRefused : Obligations.HostOperationsRefused := by
  intro i s hh hwf
  obtain ⟨rfl, k, hk⟩ | ⟨hread, k, hk⟩ | ⟨⟨c0, c1, c2, c3, rfl⟩, k, hk⟩ | ⟨hnot, k, hk⟩ := exec_host_rule hh hwf s
  all_goals rw [hk]
  case inl =>
    exact ⟨fun _ hne => absurd rfl hne, fun _ => whenUnattached_of_frame k, nofun,
      fun _ hw _ _ _ => whenUnattached_of_window k hw⟩
  case inr.inl =>
    refine ⟨fun ha _ => whenReadable_of_unattached k ha, whenReadable_of_frame k, ?_, fun _ _ hreg hmem _ => ?_⟩
    · rintro - - c0 c1 c2 c3 rfl
      obtain ⟨_, h⟩ | ⟨_, h⟩ := hread <;> cases h
    · obtain ⟨r, hr⟩ | ⟨a, ha⟩ := hread
      · exact absurd hr (hreg r)
      · exact absurd ha (hmem a)
  case inr.inr.inl =>
    exact ⟨fun ha _ => whenIdle_of_unattached k ha _, fun ha hw hp => whenIdle_of_frame k ha hw hp _,
      fun ha hw _ _ _ _ _ => whenIdle_of_window k ha hw _, fun _ _ _ _ hnot => absurd rfl (hnot c0 c1 c2 c3)⟩
  case inr.inr.inr =>
    exact ⟨fun ha _ => whenIdle_of_unattached k ha _, fun ha hw hp => whenIdle_of_frame k ha hw hp _,
      fun _ _ c0 c1 c2 c3 h => absurd h (hnot c0 c1 c2 c3), fun ha hw _ _ _ => whenIdle_of_window k ha hw _⟩

/-! ### INIT -/

/-- Settles O11: an unattached block at rest runs INIT, which compares the buffer with the 64 KiB it needs. -/
theorem initOutcomes : Obligations.InitOutcomes := by
  intro s hw hp
  refine ⟨fun ha hlarge => ?_, fun ha hsmall => ?_, fun ha => whenUnattached_of_attached _ ha hw hp⟩
  · exact (whenUnattached_of ha hw hp _).trans (if_neg (Nat.not_lt.mpr hlarge))
  · exact (whenUnattached_of ha hw hp _).trans (if_pos hsmall)

/-! ### Rest -/

/-- A block that rests goes on resting: nothing enters the inbox by itself (R112, R219). -/
theorem run_of_rest {s : State} (ht : s.hostTurn = true) (hi : s.inbox = []) (n : Nat) : core.run n s = .next s := by
  induction n with
  | zero => rfl
  | succ n ih => rw [run_next (step_of_rest ht hi), ih]

theorem hostTurn_of_window {s : State} (hw : s.window ≠ none) : s.hostTurn = true := by
  simp [State.hostTurn, Option.isSome_iff_ne_none.mpr hw]

/-- Settles O9: inside a window it is the host's turn, and it has nothing to do. -/
theorem openWindowStays : Obligations.OpenWindowStays :=
  fun _ n hw hi => run_of_rest (hostTurn_of_window hw) hi n

end Sys2Proof.Machine
end

section
/-! PROOFS. A selected sprite's tile row, and when its pixel overwrites (R164, R165, R177, R178). -/

namespace Sys2Proof.Machine

/-! ### The row of a sprite -/

section
variable {m : Memory} {i : Fin 40} {line : Nat} {size16 : Bool}

/-- The row hit is inside the sprite when the scan has selected it (R160, R164). -/
theorem hitRow_of_mem_scan (h : i ∈ scan m line size16) :
    hitRow m i line = (line + 16 - (objY m i).toNat : Nat) ∧
      line + 16 - (objY m i).toNat < spriteHeight size16 := by
  obtain ⟨-, hlow, hhigh⟩ := (selectable_iff ..).mp (selectable_of_mem_scan h)
  simp only [hitRow, Config.yOfs] at *
  omega

/-- The lower half of a 16-row sprite. -/
theorem spriteRow_of_lower_half {r : Nat} (hr : hitRow m i line = r) (h8 : 8 ≤ r) :
    spriteRow m i line true = (objTile m i + 1, BitVec.ofNat 3 (r - 8)) := by
  have hcast : (r : Int) - 8 = (r - 8 : Nat) := by omega
  have hlower : (8 : Int) ≤ r := by omega
  simp only [spriteRow, hr, hcast, hlower, true_and, if_true, BitVec.ofInt_natCast]

/-- The upper half of a 16-row sprite, or an 8-row sprite. -/
theorem spriteRow_of_first_tile {r : Nat} (hr : hitRow m i line = r) (h : size16 = false ∨ r < 8) :
    spriteRow m i line size16 = (objTile m i, BitVec.ofNat 3 r) := by
  have hupper : ¬ (size16 = true ∧ (8 : Int) ≤ r) := by
    rintro ⟨rfl, h8⟩
    obtain h | h := h
    · cases h
    · omega
  simp only [spriteRow, hr, if_neg hupper, BitVec.ofInt_natCast]

end

/-- Settles O28: the row hit is less than the sprite's height, so less than 8 in the tile it is in. -/
theorem spriteRowOfSelected : Obligations.SpriteRowOfSelected := by
  intro m i line size16 hi y tile
  obtain ⟨hrow, hlt⟩ := hitRow_of_mem_scan hi
  refine ⟨?_, fun h => ⟨spriteRow_of_first_tile hrow h, ?_⟩⟩
  · rintro rfl h8
    have hnext : objTile m i + 1 = BitVec.ofNat 8 (tile.toNat + 1) := by
      rw [BitVec.ofNat_add, BitVec.ofNat_toNat, BitVec.setWidth_eq]
      rfl
    have hrow16 : line + 16 - y < 16 := hlt
    exact ⟨hnext ▸ spriteRow_of_lower_half hrow h8, by omega⟩
  · obtain rfl | h8 := h
    · exact hlt
    · exact h8

/-! ### Overwriting and priority -/

/-- Where a sprite covers the column it is silent when its index there is 0 or PRIO holds it back. -/
theorem silent_iff_of_spriteIndex {s : State} {line col : Nat} {i : Fin 40} {q : TwoBit}
    (hq : spriteIndex s i line col = some q) (bgidx : TwoBit) :
    Silent s line col bgidx i ↔ q = 0 ∨ (flagPrio (objFlags s.mem i) = true ∧ bgidx ≠ 0) := by
  simp only [Silent, hq, Option.some.injEq, forall_eq']

/-- Settles O32: a sprite pixel is drawn unless the sprite is silent. -/
theorem priorityRule : Obligations.PriorityRule := by
  intro s line col bgidx q i p hq
  have hsilent := silent_iff_of_spriteIndex hq bgidx
  refine ⟨fun h0 => ?_, fun _ hprio hbg => ?_, fun h0 hfree => ?_⟩
  · exact drawSprite_of_silent (hsilent.mpr (.inl h0)) p
  · exact drawSprite_of_silent (hsilent.mpr (.inr ⟨hprio, hbg⟩)) p
  · refine drawSprite_of_not_silent (fun hs => ?_) hq p
    obtain ⟨hprio, hbg⟩ := (hsilent.mp hs).resolve_left h0
    exact hfree.elim (fun h => Bool.false_ne_true (h.symm.trans hprio)) hbg

end Sys2Proof.Machine
end

section
/-! PROOFS. The two ends of a run: how an instance is created (R50, R85, R240) and how a frame is over (R201). -/

namespace Sys2Proof.Machine

/-- Settles O43: SQ_END writes the phase register only. -/
theorem sqEndRests : Obligations.SqEndRests := fun _ => rfl

/-- Settles O59: creation fixes what R50 specifies and takes the rest from the power-up values, which are the named
ones for `State.reset`. -/
theorem resetValues : Obligations.ResetValues :=
  ⟨fun _ _ _ => ⟨rfl, rfl, rfl, rfl, rfl, rfl, rfl, rfl, rfl, rfl⟩,
    Config.Params.default, Config.memSize, PowerUp.named, rfl⟩

theorem createInstance_of_legal_base (blank : Byte) (base : Fin 0xF001) (n : Nat) (u : PowerUp) :
    createInstance blank base n u = .next (State.created { blank := blank, tileBaseSigned := base } n u) :=
  dif_pos base.isLt

theorem createInstance_of_base_too_large (blank : Byte) {base : Nat} (h : 0xF000 < base) (n : Nat) (u : PowerUp) :
    createInstance blank base n u = .refused .badConfiguration :=
  dif_neg (by omega)

/-- Settles O60: 0xF000 is the largest base that `Params` can hold. -/
theorem configurationBound : Obligations.ConfigurationBound := fun blank base n u =>
  ⟨fun h => createInstance_of_base_too_large blank h n u,
    fun h => ⟨_, createInstance_of_legal_base blank ⟨base, Nat.lt_succ_of_le h⟩ n u, rfl, rfl⟩⟩

end Sys2Proof.Machine
end
